-- ==== Sys2Proof/Word.lean ====
section
/-! DEFINITION. The word types of the GSVM instruction decoder block (spec/00_scope.md R5, R7) and the two
register indices with an alias (spec/10_state.md R21). -/

namespace Sys2Proof

/-- The EncodedInstruction: 32 bits, bit 0 the least significant (R5, R7, R24). -/
abbrev Word := BitVec 32

/-- One byte of the instruction stream (R51). -/
abbrev Byte := BitVec 8

/-- The 6-bit opcode `w[31:26]` (R5). -/
abbrev Opcode := BitVec 6

/-- A virtual-machine register index, 0 to 31 (R5, R21). -/
abbrev RegIdx := BitVec 5

/-- Text as the list of its characters, the form spec/46_text_renderer.md asks of a model. -/
abbrev Text := List Char

/-- The characters of a string. -/
def text (s : String) : Text := s.toList

/-- The frame-pointer index, rendered `bp` (R21). -/
abbrev BP : RegIdx := 30

/-- The stack-pointer index, rendered `sp` (R21). -/
abbrev SP : RegIdx := 31

end Sys2Proof
end

