-- ==== Sys2Proof/Config.lean ====
section
/-! DEFINITION. The data types a table entry ranges over (spec/10_state.md R28, R31, R32; spec/30_encoding.md
R74) and the parameters of spec/00_scope.md R6: those it leaves open as constants without a body, those it decides as
named constants. -/

namespace Sys2Proof

/-- Kind tag of an immediate (R28). -/
inductive ImmKind
  | const
  | constBool
  | fixed
deriving DecidableEq, Repr, Inhabited

/-- The four operators of an Expression, in the order the spec names them: `+`, `-`, `<<`, `>>` (R28). -/
inductive BinOp
  | add
  | sub
  | shl
  | shr
deriving DecidableEq, Repr, Inhabited

/-- Address-space tag of a Reference (R28, R39). -/
inductive Space
  | code
  | global
  | unified
  | stack
deriving DecidableEq, Repr, Inhabited

/-- An operand of a decoded instruction (R28). The declared width is a label of 0 to 32; it never truncates the
value (spec/90_conflicts.md C3, decision D11). -/
inductive Operand
  | reg (idx : RegIdx)
  | imm (value : BitVec 32) (width : Fin 33) (kind : ImmKind)
  | expr (lhs : Operand) (op : BinOp) (rhs : Operand)
  | ref (inner : Operand) (space : Space) (iprel : Bool)
deriving DecidableEq, Repr, Inhabited

/-- The decode rules by the spec's names (R74), and `DR_OPEN` for an entry whose rule the source does not
describe (R36: any pure function from the word to at most three operands). -/
inductive DecodeRule
  | DR_NONE | DR_R | DR_RR | DR_RRR | DR_RI21 | DR_RI16 | DR_RI8 | DR_RI21S11
  | DR_BRC | DR_JMP | DR_CALL | DR_RETN
  | DR_LDG | DR_LDBD_G | DR_LDBD_C | DR_LDBD_U | DR_LDBD_S | DR_LDLOC | DR_MKSTR
  | DR_PUSH | DR_PUSHLOC | DR_POP
  | DR_STORE | DR_DECREF | DR_MOV
  | DR_OPEN
deriving DecidableEq, Repr, Inhabited

/-- The six operand bits of an entry, the open parameter `UC[k]` (R6, R35): USE1 to USE3 (operand read) and
CHG1 to CHG3 (operand written). -/
structure UseChg where
  use1 : Bool
  use2 : Bool
  use3 : Bool
  chg1 : Bool
  chg2 : Bool
  chg3 : Bool
deriving DecidableEq, Repr, Inhabited

/-- The nine members of the instruction-flags bitmask (R32), as a record so that no statement need speak of bit
positions (decision D3). -/
structure Flags where
  use1 : Bool
  use2 : Bool
  use3 : Bool
  chg1 : Bool
  chg2 : Bool
  chg3 : Bool
  jump : Bool
  call : Bool
  noFall : Bool
deriving DecidableEq, Repr, Inhabited

/-- The six mnemonics whose opcode number the source states (R33). -/
inductive Pinned
  | add
  | jmp
  | call
  | mov
  | stMem32
  | unk36
deriving DecidableEq, Repr, Inhabited

/-- The twelve mnemonics the source names without an opcode number (R35). -/
inductive Unnumbered
  | jz
  | jnz
  | retn
  | ldLocal32b
  | mkstr
  | push
  | pushLocal32
  | pop
  | stMem8
  | stGc
  | decref
  | mkgc
deriving DecidableEq, Repr, Inhabited

/-- A character a line may hold: ASCII and not a line feed or carriage return (R210, R221, decision D20). -/
def lineChar (c : Char) : Bool := c.toNat < 128 && c != '\n' && c != '\r'

/-- A row of `TABLE` that the source describes only as a member of a family (R36): its mnemonic, its decode rule
and its control-flow bits, all open. -/
structure Row where
  mnemonic : Text
  rule : DecodeRule
  jump : Bool
  call : Bool
  noFall : Bool
deriving DecidableEq, Repr, Inhabited

/-- An entry of the opcode table (R31). -/
structure Entry where
  mnemonic : Text
  rule : DecodeRule
  flags : Flags
deriving DecidableEq, Repr, Inhabited

/-- What stands in one of the 64 slots of the opcode table (R30): one of the six pinned entries (R33), one of the
twelve named entries (R35), an entry known only as a row of `TABLE` (R36), or nothing. -/
inductive TableSlot
  | pinned (m : Pinned)
  | unnumbered (m : Unnumbered)
  | unnamed (r : Row)
  | empty
deriving DecidableEq, Repr, Inhabited

/-- The parameters of spec/00_scope.md R6 with the constraints of R6, R33, R34 and R210: an admissible `TABLE`.
An open decode rule is given by a constant operand count (decision D23) and one operand for each place. -/
structure Params where
  /-- `LAST_OPC`: the highest opcode that has an entry. -/
  lastOpc : Opcode
  /-- `OPC_<mnemonic>`. -/
  opcOf : Unnumbered → Opcode
  /-- `UC[k]`. -/
  useChg : Opcode → UseChg
  /-- The rest of `TABLE`: the row of an opcode that no named mnemonic takes. -/
  row : Opcode → Row
  /-- How many operands the open decode rule of an opcode produces. -/
  openCount : Opcode → Fin 4
  /-- The operand an open decode rule (`RULE_mkgc`, `RULE_unk_36`, or that of an unnamed row) produces at a place. -/
  openOperand : Opcode → Nat → Word → Operand
  lastOpc_ge : 0x36 ≤ lastOpc
  opcOf_le : ∀ m, opcOf m ≤ lastOpc
  opcOf_unpinned : ∀ m, opcOf m ≠ 0x00 ∧ opcOf m ≠ 0x07 ∧ opcOf m ≠ 0x0F ∧ opcOf m ≠ 0x16 ∧ opcOf m ≠ 0x30 ∧ opcOf m ≠ 0x36
  opcOf_injective : ∀ m n, opcOf m = opcOf n → m = n
  /-- A row's mnemonic is any string (R223) of characters a line may hold (R210, D20). DEDUCED 17
  (notes/assumptions/17.md). -/
  row_mnemonic_lineChar : ∀ k, (row k).mnemonic.all lineChar = true

/-- Twelve opcode numbers that meet the constraints; used only to show that some `TABLE` is admissible. -/
def Unnumbered.someOpcode : Unnumbered → Opcode
  | .jz => 0x01
  | .jnz => 0x02
  | .retn => 0x03
  | .ldLocal32b => 0x04
  | .mkstr => 0x05
  | .push => 0x06
  | .pushLocal32 => 0x08
  | .pop => 0x09
  | .stMem8 => 0x0A
  | .stGc => 0x0B
  | .decref => 0x0C
  | .mkgc => 0x0D

/-- An admissible `TABLE`: the parameters are not contradictory. No definition of the model depends on it. -/
def Params.someAdmissible : Params where
  lastOpc := 0x36
  opcOf := Unnumbered.someOpcode
  useChg := fun _ => ⟨false, false, false, false, false, false⟩
  row := fun _ => ⟨text "row", .DR_NONE, false, false, false⟩
  openCount := fun _ => 0
  openOperand := fun _ _ _ => .reg 0
  lastOpc_ge := by decide
  opcOf_le := by intro m; cases m <;> decide
  opcOf_unpinned := by intro m; cases m <;> decide
  opcOf_injective := by intro m n; cases m <;> cases n <;> decide
  row_mnemonic_lineChar := fun _ => show (text "row").all lineChar = true by decide

/-- The parameters of the block, left open by the source (R6; decisions D6, D7, D23): an uninterpreted constant.
The argument only says that `Params` is inhabited. DESIGN CHOICE 1 (notes/assumptions/1.md); safe. -/
opaque Config.paramsOf [Inhabited Params] : Params

/-- `TABLE`, `LAST_OPC`, `OPC_<mnemonic>`, `UC[k]` and the open decode rules of the block: nothing is known of them
but the constraints `Params` carries. -/
def Config.params : Params := @Config.paramsOf ⟨Params.someAdmissible⟩

/-- What an operand port carries when the operand of an open decode rule has no packed form (R38: such a rule is
admitted only in the abstract model): a free value of the word and the place.
DESIGN CHOICE 2 (notes/assumptions/2.md); safe. -/
opaque Config.uncarriedSlot : Word → Nat → BitVec 55

/-- The byte a hardware renderer puts out for a character outside ASCII. The type `Text` admits such a character and the line
of no word holds one (R210): R224 gives one ASCII byte per character and says nothing of it, so its byte is a free value.
DESIGN CHOICE 21 (notes/assumptions/21.md); safe. -/
opaque Config.nonAsciiByte : Char → Byte

/-- `MNEM_COL`, the width of the mnemonic column (R6, decision D15). -/
abbrev Config.mnemonicColumn : Nat := 16

/-- `RENDER_HEX_UPPER`: whether the hexadecimal digits of a CONST immediate are uppercase (R6, decision D12). -/
abbrev Config.hexUpper : Bool := true

/-- `RENDER_HEX_MIN_DIGITS` (R6, decision D12). -/
abbrev Config.hexMinDigits : Nat := 2

end Sys2Proof
end

