-- ==== Sys2Proof/Syntax.lean ====
section
/-! DEFINITION. The instruction words of the block by row of spec/opcode_table.json, each with the fields its format
reads (spec/30_encoding.md R73). -/

namespace Sys2Proof

/-- One constructor per row of spec/opcode_table.json, with the fields of R70 that the row's format holds (R73);
bits the format marks `-` are don't-care (R11) and not kept. `row` is a word of any other entry of `TABLE` (R36). -/
inductive Instr
  /-- R117, opcode 0x00, format RRR. -/
  | add (ra rb rc : RegIdx)
  /-- R134, opcode 0x07, format I21. -/
  | jmp (imm21 : BitVec 21)
  /-- R137, opcode 0x0F, format CALL. -/
  | call (ra : RegIdx) (fidx20 : BitVec 20) (flag0 : BitVec 1)
  /-- R189, opcode 0x16, format RRI16. -/
  | mov (ra rb : RegIdx) (imm16 : BitVec 16)
  /-- R181, opcode 0x30, format RRI16. -/
  | stMem32 (ra rb : RegIdx) (imm16 : BitVec 16)
  /-- R190, opcode 0x36; its open rule may read any bit below the opcode. -/
  | unk36 (low26 : BitVec 26)
  /-- R131, `OPC_jz`, format RI21. -/
  | jz (ra : RegIdx) (imm21 : BitVec 21)
  /-- R132, `OPC_jnz`, format RI21. -/
  | jnz (ra : RegIdx) (imm21 : BitVec 21)
  /-- R139, `OPC_retn`, format I16. -/
  | retn (imm16 : BitVec 16)
  /-- R156, `OPC_ld_local32b`, format RI16. -/
  | ldLocal32b (ra : RegIdx) (imm16 : BitVec 16)
  /-- R158, `OPC_mkstr`, format RI21. -/
  | mkstr (ra : RegIdx) (imm21 : BitVec 21)
  /-- R171, `OPC_push`, format RI21. -/
  | push (ra : RegIdx) (imm21 : BitVec 21)
  /-- R173, `OPC_push_local32`, format RI16 with `w[25:21]` a flag. -/
  | pushLocal32 (flag : BitVec 5) (imm16 : BitVec 16)
  /-- R175, `OPC_pop`, format POP. -/
  | pop (pop22 : BitVec 22) (pop4 : BitVec 4)
  /-- R182, `OPC_st_mem8`, format RRI16. -/
  | stMem8 (ra rb : RegIdx) (imm16 : BitVec 16)
  /-- R183, `OPC_st_gc`, format RRI16. -/
  | stGc (ra rb : RegIdx) (imm16 : BitVec 16)
  /-- R186, `OPC_decref`, format RI21. -/
  | decref (ra : RegIdx) (imm21 : BitVec 21)
  /-- R187, `OPC_mkgc`; its open rule may read any bit below the opcode. -/
  | mkgc (low26 : BitVec 26)
  /-- R110, a row of `TABLE` bound to `DR_R`, at opcode `opc` (so for the eleven after it). -/
  | drR (opc : Opcode) (ra : RegIdx)
  /-- R111, `DR_RR`. -/
  | drRR (opc : Opcode) (ra rb : RegIdx)
  /-- R112, `DR_RRR`. -/
  | drRRR (opc : Opcode) (ra rb rc : RegIdx)
  /-- R113, `DR_RI21`. -/
  | drRI21 (opc : Opcode) (ra : RegIdx) (imm21 : BitVec 21)
  /-- R114, `DR_RI16`. -/
  | drRI16 (opc : Opcode) (ra : RegIdx) (imm16 : BitVec 16)
  /-- R115, `DR_RI8`. -/
  | drRI8 (opc : Opcode) (ra : RegIdx) (imm8 : BitVec 8)
  /-- R116, `DR_RI21S11`. -/
  | drRI21S11 (opc : Opcode) (ra : RegIdx) (imm21 : BitVec 21)
  /-- R150, `DR_LDG`. -/
  | drLDG (opc : Opcode) (ra : RegIdx) (imm21 : BitVec 21)
  /-- R151, `DR_LDBD_G`. -/
  | drLDBDG (opc : Opcode) (ra rb : RegIdx) (imm16 : BitVec 16)
  /-- R152, `DR_LDBD_C`. -/
  | drLDBDC (opc : Opcode) (ra rb : RegIdx) (imm16 : BitVec 16)
  /-- R153, `DR_LDBD_U`. -/
  | drLDBDU (opc : Opcode) (ra rb : RegIdx) (imm16 : BitVec 16)
  /-- R154, `DR_LDBD_S`. -/
  | drLDBDS (opc : Opcode) (ra rb : RegIdx) (imm16 : BitVec 16)
  /-- R36: a row of `TABLE` whose rule is open or is one that spec/opcode_table.json lists under a name only
  (an unnamed store, say). No row of that file stands for it; spec/10_state.md R36 admits it. -/
  | row (opc : Opcode) (low26 : BitVec 26)
  /-- R200, an opcode without an entry. -/
  | ud (opc : Opcode)
deriving DecidableEq, Repr

end Sys2Proof
end

