-- ==== Sys2Proof/Decode.lean ====
section
/-! DEFINITION. The parallel bitfield extractor (spec/30_encoding.md R70, R71), the opcode table (spec/10_state.md
R30 to R36), the decoder from words and stream bytes to `Instr`, and the encoder. -/

namespace Sys2Proof

/-! ### Extraction (spec/00_scope.md R8) -/

/-- `extract(word, start, stop)` by R8's formula; the range is `[start, stop)`. Outside `0 ≤ start ≤ stop ≤ 32` it
still yields the bits that exist (R241); `extractChecked` refuses such a range. -/
def extract (word : Word) (start stop : Nat) : Nat :=
  (((2 ^ (stop - start) - 1) <<< start) &&& word.toNat) >>> start

/-- The eleven fields the extractor computes for every word, whatever the opcode (R70). -/
structure Fields where
  opc : Opcode
  ra : RegIdx
  rb : RegIdx
  rc : RegIdx
  imm21 : BitVec 21
  imm16 : BitVec 16
  imm8 : BitVec 8
  fidx20 : BitVec 20
  flag0 : BitVec 1
  pop22 : BitVec 22
  pop4 : BitVec 4
deriving DecidableEq, Repr

/-- The wire slices of R70. -/
def extractFields (w : Word) : Fields where
  opc := w.extractLsb' 26 6
  ra := w.extractLsb' 21 5
  rb := w.extractLsb' 16 5
  rc := w.extractLsb' 11 5
  imm21 := w.extractLsb' 0 21
  imm16 := w.extractLsb' 0 16
  imm8 := w.extractLsb' 0 8
  fidx20 := w.extractLsb' 1 20
  flag0 := w.extractLsb' 0 1
  pop22 := w.extractLsb' 4 22
  pop4 := w.extractLsb' 0 4

/-- The five mode predicates (R71). -/
structure Modes where
  raZero : Bool
  raBp : Bool
  rbSp : Bool
  i16Zero : Bool
  i16One : Bool
deriving DecidableEq, Repr

/-- R71: one comparison each. -/
def Fields.modes (f : Fields) : Modes where
  raZero := f.ra == 0
  raBp := f.ra == BP
  rbSp := f.rb == SP
  i16Zero := f.imm16 == 0
  i16One := f.imm16 == 1

/-- The bits below the opcode, `w[25:0]`. -/
def low26Of (w : Word) : BitVec 26 := w.extractLsb' 0 26

/-! ### The opcode table (spec/10_state.md R30 to R36) -/

/-- The opcode number of a pinned entry (R33). -/
def Pinned.opcode : Pinned → Opcode
  | .add => 0x00
  | .jmp => 0x07
  | .call => 0x0F
  | .mov => 0x16
  | .stMem32 => 0x30
  | .unk36 => 0x36

/-- The pinned entry at an opcode (R33). -/
def pinnedAt (k : Opcode) : Option Pinned :=
  [Pinned.add, .jmp, .call, .mov, .stMem32, .unk36].find? (fun m => m.opcode == k)

/-- The unnumbered mnemonic that `OPC_<mnemonic>` places at an opcode (R35). -/
def unnumberedAt (p : Params) (k : Opcode) : Option Unnumbered :=
  [Unnumbered.jz, .jnz, .retn, .ldLocal32b, .mkstr, .push, .pushLocal32, .pop, .stMem8, .stGc, .decref, .mkgc].find?
    (fun m => p.opcOf m == k)

/-- `TABLE[k]` by kind of slot: the pinned entries (R33), nothing above `LAST_OPC` (R34), the named entries (R35),
and a row of the open rest (R36). -/
def tableSlot (p : Params) (k : Opcode) : TableSlot :=
  match pinnedAt k with
  | some m => .pinned m
  | none =>
    if p.lastOpc < k then .empty
    else
      match unnumberedAt p k with
      | some m => .unnumbered m
      | none => .unnamed (p.row k)

/-- A flags mask from the open operand bits and the three control-flow bits (R32). -/
def UseChg.withControl (u : UseChg) (jump call noFall : Bool) : Flags :=
  ⟨u.use1, u.use2, u.use3, u.chg1, u.chg2, u.chg3, jump, call, noFall⟩

/-- All nine bits zero (R190, R200). -/
def Flags.zero : Flags := ⟨false, false, false, false, false, false, false, false, false⟩

/-- The pinned entries (R33; control-flow bits R35). -/
def pinnedEntry (p : Params) (m : Pinned) : Entry :=
  match m with
  | .add => ⟨text "add", .DR_RRR, (p.useChg m.opcode).withControl false false false⟩
  | .jmp => ⟨text "jmp", .DR_JMP, (p.useChg m.opcode).withControl true false true⟩
  | .call => ⟨text "call", .DR_CALL, (p.useChg m.opcode).withControl false true false⟩
  | .mov => ⟨text "mov", .DR_MOV, (p.useChg m.opcode).withControl false false false⟩
  | .stMem32 => ⟨text "st_mem32", .DR_STORE, (p.useChg m.opcode).withControl false false false⟩
  | .unk36 => ⟨text "unk_36", .DR_OPEN, Flags.zero⟩

/-- The named entries without a stated number (R35). -/
def unnumberedEntry (p : Params) (m : Unnumbered) : Entry :=
  match m with
  | .jz => ⟨text "jz", .DR_BRC, (p.useChg (p.opcOf m)).withControl true false false⟩
  | .jnz => ⟨text "jnz", .DR_BRC, (p.useChg (p.opcOf m)).withControl true false false⟩
  | .retn => ⟨text "retn", .DR_RETN, (p.useChg (p.opcOf m)).withControl false false true⟩
  | .ldLocal32b => ⟨text "ld_local32b", .DR_LDLOC, (p.useChg (p.opcOf m)).withControl false false false⟩
  | .mkstr => ⟨text "mkstr", .DR_MKSTR, (p.useChg (p.opcOf m)).withControl false false false⟩
  | .push => ⟨text "push", .DR_PUSH, (p.useChg (p.opcOf m)).withControl false false false⟩
  | .pushLocal32 => ⟨text "push_local32", .DR_PUSHLOC, (p.useChg (p.opcOf m)).withControl false false false⟩
  | .pop => ⟨text "pop", .DR_POP, (p.useChg (p.opcOf m)).withControl false false false⟩
  | .stMem8 => ⟨text "st_mem8", .DR_STORE, (p.useChg (p.opcOf m)).withControl false false false⟩
  | .stGc => ⟨text "st_gc", .DR_STORE, (p.useChg (p.opcOf m)).withControl false false false⟩
  | .decref => ⟨text "decref", .DR_DECREF, (p.useChg (p.opcOf m)).withControl false false false⟩
  | .mkgc => ⟨text "mkgc", .DR_OPEN, (p.useChg (p.opcOf m)).withControl false false false⟩

/-- The entry of an unnamed row at an opcode (R36). -/
def rowEntry (p : Params) (k : Opcode) (r : Row) : Entry :=
  ⟨r.mnemonic, r.rule, (p.useChg k).withControl r.jump r.call r.noFall⟩

/-- `TABLE[k]` (R30, R31). -/
def tableEntry (p : Params) (k : Opcode) : Option Entry :=
  match tableSlot p k with
  | .pinned m => some (pinnedEntry p m)
  | .unnumbered m => some (unnumberedEntry p m)
  | .unnamed r => some (rowEntry p k r)
  | .empty => none

/-! ### Words to instructions -/

/-- The instruction a word of an unnamed row is, by the row's decode rule (R36, R73). -/
def rowInstr (rule : DecodeRule) (w : Word) : Instr :=
  let f := extractFields w
  match rule with
  | .DR_R => .drR f.opc f.ra
  | .DR_RR => .drRR f.opc f.ra f.rb
  | .DR_RRR => .drRRR f.opc f.ra f.rb f.rc
  | .DR_RI21 => .drRI21 f.opc f.ra f.imm21
  | .DR_RI16 => .drRI16 f.opc f.ra f.imm16
  | .DR_RI8 => .drRI8 f.opc f.ra f.imm8
  | .DR_RI21S11 => .drRI21S11 f.opc f.ra f.imm21
  | .DR_LDG => .drLDG f.opc f.ra f.imm21
  | .DR_LDBD_G => .drLDBDG f.opc f.ra f.rb f.imm16
  | .DR_LDBD_C => .drLDBDC f.opc f.ra f.rb f.imm16
  | .DR_LDBD_U => .drLDBDU f.opc f.ra f.rb f.imm16
  | .DR_LDBD_S => .drLDBDS f.opc f.ra f.rb f.imm16
  | .DR_NONE | .DR_BRC | .DR_JMP | .DR_CALL | .DR_RETN | .DR_LDLOC | .DR_MKSTR | .DR_PUSH | .DR_PUSHLOC | .DR_POP
  | .DR_STORE | .DR_DECREF | .DR_MOV | .DR_OPEN => .row f.opc (low26Of w)

/-- The instruction a word is, under a table. Defined for every word (R10): an opcode without an entry is `ud`
(R77, R200). -/
def decodeWith (p : Params) (w : Word) : Instr :=
  let f := extractFields w
  match tableSlot p f.opc with
  | .pinned .add => .add f.ra f.rb f.rc
  | .pinned .jmp => .jmp f.imm21
  | .pinned .call => .call f.ra f.fidx20 f.flag0
  | .pinned .mov => .mov f.ra f.rb f.imm16
  | .pinned .stMem32 => .stMem32 f.ra f.rb f.imm16
  | .pinned .unk36 => .unk36 (low26Of w)
  | .unnumbered .jz => .jz f.ra f.imm21
  | .unnumbered .jnz => .jnz f.ra f.imm21
  | .unnumbered .retn => .retn f.imm16
  | .unnumbered .ldLocal32b => .ldLocal32b f.ra f.imm16
  | .unnumbered .mkstr => .mkstr f.ra f.imm21
  | .unnumbered .push => .push f.ra f.imm21
  | .unnumbered .pushLocal32 => .pushLocal32 f.ra f.imm16
  | .unnumbered .pop => .pop f.pop22 f.pop4
  | .unnumbered .stMem8 => .stMem8 f.ra f.rb f.imm16
  | .unnumbered .stGc => .stGc f.ra f.rb f.imm16
  | .unnumbered .decref => .decref f.ra f.imm21
  | .unnumbered .mkgc => .mkgc (low26Of w)
  | .unnamed r => rowInstr r.rule w
  | .empty => .ud f.opc

/-- The block's decoder: `decodeWith` at the block's own table. -/
def decode (w : Word) : Instr := decodeWith Config.params w

/-- The bits below the opcode that a decode rule reads from a word (R11, R73); in `DR_CALL` and `DR_PUSH` the register
field decides whether the low field is read (R136, R170). An open rule may read any bit. -/
def readMask (rule : DecodeRule) (w : Word) : BitVec 26 :=
  match rule with
  | .DR_NONE => 0
  | .DR_R => 0x3E00000
  | .DR_RR => 0x3FF0000
  | .DR_RRR => 0x3FFF800
  | .DR_RI16 | .DR_LDLOC | .DR_PUSHLOC => 0x3E0FFFF
  | .DR_RI8 => 0x3E000FF
  | .DR_JMP => 0x01FFFFF
  | .DR_RETN => 0x000FFFF
  | .DR_CALL => if (extractFields w).ra = 0 then 0x3FFFFFF else 0x3E00001
  | .DR_PUSH => if (extractFields w).ra = BP then 0x3FFFFFF else 0x3E00000
  | .DR_RI21 | .DR_RI21S11 | .DR_BRC | .DR_LDG | .DR_MKSTR | .DR_DECREF | .DR_LDBD_G | .DR_LDBD_C | .DR_LDBD_U
  | .DR_LDBD_S | .DR_STORE | .DR_MOV | .DR_POP | .DR_OPEN => 0x3FFFFFF

/-! ### Stream bytes (spec/20_memory.md R51) -/

/-- The word of four stream bytes, the byte at the lowest offset least significant (R51). -/
def wordOfBytes (b0 b1 b2 b3 : Byte) : Word := b3 ++ b2 ++ b1 ++ b0

/-- The four stream bytes of a word, lowest offset first (R51). -/
def bytesOfWord (w : Word) : List Byte :=
  [w.extractLsb' 0 8, w.extractLsb' 8 8, w.extractLsb' 16 8, w.extractLsb' 24 8]

/-- The first word of a byte stream and the bytes after it; `none` when fewer than four bytes are left (R52: the
block is never given a partial word). -/
def takeWord : List Byte → Option (Word × List Byte)
  | b0 :: b1 :: b2 :: b3 :: rest => some (wordOfBytes b0 b1 b2 b3, rest)
  | _ => none

/-- Why a byte sequence is no instruction. -/
inductive DecodeError
  /-- Fewer than four bytes: no whole word (R52). Raised by `decodeBytes`; safe. -/
  | shortWord
deriving DecidableEq, Repr

/-- The first instruction of a byte sequence and the bytes after it. -/
def decodeBytes (bs : List Byte) : Except DecodeError (Instr × List Byte) :=
  match takeWord bs with
  | some (w, rest) => .ok (decode w, rest)
  | none => .error .shortWord

/-- A natural number as an EncodedInstruction: refused from 2^32 on, never reduced modulo 2^32 (R240, D17). -/
def wordOfNat (n : Nat) : Option Word :=
  if n < 2 ^ 32 then some (BitVec.ofNat 32 n) else none

/-- What the decoder reads from an instruction whose bits are `w`; every row has 32 bits, laid out as four
little-endian stream bytes. A number that is no 32-bit word is refused (R240). -/
def decodeTableWord (_nbits w : Nat) : Option Instr :=
  match wordOfNat w with
  | none => none
  | some v =>
    match decodeBytes (bytesOfWord v) with
    | .ok (i, _) => some i
    | .error _ => none

/-! ### The encoder (spec/30_encoding.md R73; don't-care bits are written 0) -/

/-- The opcode of an instruction under a table (R33, R35). -/
def Instr.opcodeWith (p : Params) : Instr → Opcode
  | .add _ _ _ => Pinned.add.opcode
  | .jmp _ => Pinned.jmp.opcode
  | .call _ _ _ => Pinned.call.opcode
  | .mov _ _ _ => Pinned.mov.opcode
  | .stMem32 _ _ _ => Pinned.stMem32.opcode
  | .unk36 _ => Pinned.unk36.opcode
  | .jz _ _ => p.opcOf .jz
  | .jnz _ _ => p.opcOf .jnz
  | .retn _ => p.opcOf .retn
  | .ldLocal32b _ _ => p.opcOf .ldLocal32b
  | .mkstr _ _ => p.opcOf .mkstr
  | .push _ _ => p.opcOf .push
  | .pushLocal32 _ _ => p.opcOf .pushLocal32
  | .pop _ _ => p.opcOf .pop
  | .stMem8 _ _ _ => p.opcOf .stMem8
  | .stGc _ _ _ => p.opcOf .stGc
  | .decref _ _ => p.opcOf .decref
  | .mkgc _ => p.opcOf .mkgc
  | .drR k _ => k
  | .drRR k _ _ => k
  | .drRRR k _ _ _ => k
  | .drRI21 k _ _ => k
  | .drRI16 k _ _ => k
  | .drRI8 k _ _ => k
  | .drRI21S11 k _ _ => k
  | .drLDG k _ _ => k
  | .drLDBDG k _ _ _ => k
  | .drLDBDC k _ _ _ => k
  | .drLDBDU k _ _ _ => k
  | .drLDBDS k _ _ _ => k
  | .row k _ => k
  | .ud k => k

/-- Format R. -/
def lowR (ra : RegIdx) : BitVec 26 := ra ++ 0#21
/-- Format RR. -/
def lowRR (ra rb : RegIdx) : BitVec 26 := ra ++ rb ++ 0#16
/-- Format RRR. -/
def lowRRR (ra rb rc : RegIdx) : BitVec 26 := ra ++ rb ++ rc ++ 0#11
/-- Format RI21. -/
def lowRI21 (ra : RegIdx) (imm21 : BitVec 21) : BitVec 26 := ra ++ imm21
/-- Format RI16. -/
def lowRI16 (ra : RegIdx) (imm16 : BitVec 16) : BitVec 26 := ra ++ 0#5 ++ imm16
/-- Format RI8. -/
def lowRI8 (ra : RegIdx) (imm8 : BitVec 8) : BitVec 26 := ra ++ 0#13 ++ imm8
/-- Format I21. -/
def lowI21 (imm21 : BitVec 21) : BitVec 26 := 0#5 ++ imm21
/-- Format RRI16. -/
def lowRRI16 (ra rb : RegIdx) (imm16 : BitVec 16) : BitVec 26 := ra ++ rb ++ imm16
/-- Format I16. -/
def lowI16 (imm16 : BitVec 16) : BitVec 26 := 0#10 ++ imm16
/-- Format CALL. -/
def lowCALL (ra : RegIdx) (fidx20 : BitVec 20) (flag0 : BitVec 1) : BitVec 26 := ra ++ fidx20 ++ flag0
/-- Format POP. -/
def lowPOP (pop22 : BitVec 22) (pop4 : BitVec 4) : BitVec 26 := pop22 ++ pop4

/-- The bits below the opcode, by the instruction's format (R73). -/
def Instr.low26 : Instr → BitVec 26
  | .add ra rb rc => lowRRR ra rb rc
  | .jmp imm21 => lowI21 imm21
  | .call ra fidx20 flag0 => lowCALL ra fidx20 flag0
  | .mov ra rb imm16 => lowRRI16 ra rb imm16
  | .stMem32 ra rb imm16 => lowRRI16 ra rb imm16
  | .unk36 low26 => low26
  | .jz ra imm21 => lowRI21 ra imm21
  | .jnz ra imm21 => lowRI21 ra imm21
  | .retn imm16 => lowI16 imm16
  | .ldLocal32b ra imm16 => lowRI16 ra imm16
  | .mkstr ra imm21 => lowRI21 ra imm21
  | .push ra imm21 => lowRI21 ra imm21
  | .pushLocal32 flag imm16 => lowRI16 flag imm16
  | .pop pop22 pop4 => lowPOP pop22 pop4
  | .stMem8 ra rb imm16 => lowRRI16 ra rb imm16
  | .stGc ra rb imm16 => lowRRI16 ra rb imm16
  | .decref ra imm21 => lowRI21 ra imm21
  | .mkgc low26 => low26
  | .drR _ ra => lowR ra
  | .drRR _ ra rb => lowRR ra rb
  | .drRRR _ ra rb rc => lowRRR ra rb rc
  | .drRI21 _ ra imm21 => lowRI21 ra imm21
  | .drRI16 _ ra imm16 => lowRI16 ra imm16
  | .drRI8 _ ra imm8 => lowRI8 ra imm8
  | .drRI21S11 _ ra imm21 => lowRI21 ra imm21
  | .drLDG _ ra imm21 => lowRI21 ra imm21
  | .drLDBDG _ ra rb imm16 => lowRRI16 ra rb imm16
  | .drLDBDC _ ra rb imm16 => lowRRI16 ra rb imm16
  | .drLDBDU _ ra rb imm16 => lowRRI16 ra rb imm16
  | .drLDBDS _ ra rb imm16 => lowRRI16 ra rb imm16
  | .row _ low26 => low26
  | .ud _ => 0

/-- The word of an opcode and the bits below it. -/
def joinWord (k : Opcode) (low26 : BitVec 26) : Word := k ++ low26

/-- The word of an instruction under a table. -/
def encodeWith (p : Params) (i : Instr) : Word := joinWord (i.opcodeWith p) i.low26

/-- The word of an instruction under the block's own table. -/
def encode (i : Instr) : Word := encodeWith Config.params i

end Sys2Proof
end

