-- ==== Sys2Proof/Machine/Flags.lean ====
section
/-! DEFINITION. The instruction-flags bitmask as bits (spec/10_state.md R32) and the metadata it gives a host (R27). -/

namespace Sys2Proof.Machine

/-- The mask on `flags_o`: USE1 at bit 0 up to NO-FALLTHROUGH at bit 8 (R32). -/
def packFlags (f : Flags) : BitVec 9 :=
  BitVec.ofBool f.noFall ++ BitVec.ofBool f.call ++ BitVec.ofBool f.jump ++ BitVec.ofBool f.chg3 ++ BitVec.ofBool f.chg2 ++
    BitVec.ofBool f.chg1 ++ BitVec.ofBool f.use3 ++ BitVec.ofBool f.use2 ++ BitVec.ofBool f.use1

/-- The record of a mask on `flags_o` (R32). -/
def unpackFlags (b : BitVec 9) : Flags :=
  ⟨b.getLsbD 0, b.getLsbD 1, b.getLsbD 2, b.getLsbD 3, b.getLsbD 4, b.getLsbD 5, b.getLsbD 6, b.getLsbD 7, b.getLsbD 8⟩

/-- Operand `k` is read, `k` counted from 1: USE1 to USE3 (R27). -/
def operandRead (f : Flags) (k : Nat) : Bool :=
  match k with
  | 1 => f.use1
  | 2 => f.use2
  | 3 => f.use3
  | _ => false

/-- Operand `k` is written, `k` counted from 1: CHG1 to CHG3 (R27). -/
def operandWritten (f : Flags) (k : Nat) : Bool :=
  match k with
  | 1 => f.chg1
  | 2 => f.chg2
  | 3 => f.chg3
  | _ => false

/-- The fixed instruction length in bytes (R22, R27). -/
def instructionLength : Nat := 4

end Sys2Proof.Machine
end

