-- ==== Sys2Proof/Machine/Operands.lean ====
section
/-! DEFINITION. The decode rules (spec files 40 to 45) as functions of the fields they read, and the packed operand
slot with its unpacking (spec/10_state.md R37, R38). -/

namespace Sys2Proof.Machine

/-! ### Register forms (spec/40_register_forms.md) -/

/-- A constant immediate whose value is a field, zero-extended (R75). -/
def constImm {n : Nat} (v : BitVec n) (width : Fin 33) : Operand := .imm (v.setWidth 32) width .const

/-- A boolean immediate whose value is a field, zero-extended (R75). -/
def boolImm {n : Nat} (v : BitVec n) (width : Fin 33) : Operand := .imm (v.setWidth 32) width .constBool

/-- R200. -/
def drNONE : List Operand := []

/-- R110. -/
def drR (ra : RegIdx) : List Operand := [.reg ra]

/-- R111. -/
def drRR (ra rb : RegIdx) : List Operand := [.reg ra, .reg rb]

/-- R112. -/
def drRRR (ra rb rc : RegIdx) : List Operand := [.reg ra, .reg rb, .reg rc]

/-- R113. -/
def drRI21 (ra : RegIdx) (imm21 : BitVec 21) : List Operand := [.reg ra, constImm imm21 21]

/-- R114. -/
def drRI16 (ra : RegIdx) (imm16 : BitVec 16) : List Operand := [.reg ra, constImm imm16 16]

/-- R115. -/
def drRI8 (ra : RegIdx) (imm8 : BitVec 8) : List Operand := [.reg ra, constImm imm8 8]

/-- R116: the immediate is shifted left by 11, all 32 bits kept. -/
def drRI21S11 (ra : RegIdx) (imm21 : BitVec 21) : List Operand := [.reg ra, .imm (imm21.setWidth 32 <<< 11) 32 .const]

/-! ### Control transfer (spec/41_control_transfer.md) -/

/-- The branch displacement: the field shifted left by 2, all 23 bits kept (R130, R133, D11). -/
def branchDisp (imm21 : BitVec 21) : BitVec 32 := imm21.setWidth 32 <<< 2

/-- R130. -/
def drBRC (ra : RegIdx) (imm21 : BitVec 21) : List Operand := [.reg ra, .ref (.imm (branchDisp imm21) 23 .const) .code true]

/-- R133: the declared width is 21, the value is not cut (spec/90_conflicts.md C3). -/
def drJMP (imm21 : BitVec 21) : List Operand := [.ref (.imm (branchDisp imm21) 21 .const) .code true]

/-- R136: register field 0 selects the direct form. -/
def drCALL (ra : RegIdx) (fidx20 : BitVec 20) (flag0 : BitVec 1) : List Operand :=
  if ra = 0 then [constImm fidx20 20, boolImm flag0 1] else [.reg ra, boolImm flag0 1]

/-- R138: one opaque immediate. -/
def drRETN (imm16 : BitVec 16) : List Operand := [constImm imm16 16]

/-! ### Loads (spec/42_loads.md) -/

/-- A register plus a 16-bit displacement (R151, R155, R188). -/
def basePlus16 (base : RegIdx) (imm16 : BitVec 16) : Operand := .expr (.reg base) .add (constImm imm16 16)

/-- The STACK reference to `bp` plus a 16-bit displacement (R155, R172, R180). -/
def frameRef16 (imm16 : BitVec 16) : Operand := .ref (basePlus16 BP imm16) .stack false

/-- R150. -/
def drLDG (ra : RegIdx) (imm21 : BitVec 21) : List Operand := [.reg ra, .ref (constImm imm21 21) .global false]

/-- R151 to R154, one address space each. -/
def drLDBD (space : Space) (ra rb : RegIdx) (imm16 : BitVec 16) : List Operand :=
  [.reg ra, .ref (basePlus16 rb imm16) space false]

/-- R155. -/
def drLDLOC (ra : RegIdx) (imm16 : BitVec 16) : List Operand := [.reg ra, frameRef16 imm16]

/-- R157. -/
def drMKSTR (ra : RegIdx) (imm21 : BitVec 21) : List Operand := [.reg ra, .ref (constImm imm21 21) .global false]

/-! ### Stack (spec/43_stack.md) -/

/-- R170: register field 30 selects the immediate form. -/
def drPUSH (ra : RegIdx) (imm21 : BitVec 21) : List Operand := if ra = BP then [constImm imm21 21] else [.reg ra]

/-- R172: the flag keeps its raw 5-bit value. -/
def drPUSHLOC (flag : BitVec 5) (imm16 : BitVec 16) : List Operand := [boolImm flag 5, frameRef16 imm16]

/-- R174. -/
def drPOP (pop22 : BitVec 22) (pop4 : BitVec 4) : List Operand := [constImm pop22 22, constImm pop4 4]

/-! ### Stores, decref, mov (spec/44_store_refcount_mov.md) -/

/-- The destination of a generic store (R180). -/
def storeDest (ra : RegIdx) (imm16 : BitVec 16) : Operand :=
  if ra = BP then frameRef16 imm16
  else if imm16 = 0 then .ref (.reg ra) .global false
  else if imm16 = 1 then .ref (.reg ra) .stack false
  else .ref (.reg ra) .unified false

/-- The value of a generic store: register field 31 means the constant zero (R180). -/
def storeValue (rb : RegIdx) : Operand := if rb = SP then .imm 0 32 .const else .reg rb

/-- R180. -/
def drSTORE (ra rb : RegIdx) (imm16 : BitVec 16) : List Operand := [storeDest ra imm16, storeValue rb]

/-- R185. -/
def drDECREF (ra : RegIdx) (imm21 : BitVec 21) : List Operand :=
  if ra = BP then [.ref (.expr (.reg BP) .add (constImm imm21 21)) .stack false]
  else [.ref (.expr (.reg BP) .add (.expr (.reg ra) .add (constImm imm21 21))) .stack false]

/-- R188: a zero displacement leaves the bare source register. -/
def drMOV (ra rb : RegIdx) (imm16 : BitVec 16) : List Operand :=
  if imm16 = 0 then [.reg ra, .reg rb] else [.reg ra, basePlus16 rb imm16]

/-! ### Any rule on a word -/

/-- An open decode rule: the parameter's operands, as many as its constant count says (R36, R187, R190, D23). -/
def openOperands (p : Params) (k : Opcode) (w : Word) : List Operand :=
  (List.range (p.openCount k)).map (fun place => p.openOperand k place w)

/-- The operands a decode rule gives for a word (R74); for `DR_OPEN` those of the word's opcode. -/
def ruleOperands (p : Params) (rule : DecodeRule) (w : Word) : List Operand :=
  let f := extractFields w
  match rule with
  | .DR_NONE => drNONE
  | .DR_R => drR f.ra
  | .DR_RR => drRR f.ra f.rb
  | .DR_RRR => drRRR f.ra f.rb f.rc
  | .DR_RI21 => drRI21 f.ra f.imm21
  | .DR_RI16 => drRI16 f.ra f.imm16
  | .DR_RI8 => drRI8 f.ra f.imm8
  | .DR_RI21S11 => drRI21S11 f.ra f.imm21
  | .DR_BRC => drBRC f.ra f.imm21
  | .DR_JMP => drJMP f.imm21
  | .DR_CALL => drCALL f.ra f.fidx20 f.flag0
  | .DR_RETN => drRETN f.imm16
  | .DR_LDG => drLDG f.ra f.imm21
  | .DR_LDBD_G => drLDBD .global f.ra f.rb f.imm16
  | .DR_LDBD_C => drLDBD .code f.ra f.rb f.imm16
  | .DR_LDBD_U => drLDBD .unified f.ra f.rb f.imm16
  | .DR_LDBD_S => drLDBD .stack f.ra f.rb f.imm16
  | .DR_LDLOC => drLDLOC f.ra f.imm16
  | .DR_MKSTR => drMKSTR f.ra f.imm21
  | .DR_PUSH => drPUSH f.ra f.imm21
  | .DR_PUSHLOC => drPUSHLOC f.ra f.imm16
  | .DR_POP => drPOP f.pop22 f.pop4
  | .DR_STORE => drSTORE f.ra f.rb f.imm16
  | .DR_DECREF => drDECREF f.ra f.imm21
  | .DR_MOV => drMOV f.ra f.rb f.imm16
  | .DR_OPEN => openOperands p f.opc w

/-- The number of operands a rule always produces (R74); for `DR_OPEN` the parameter's count at the opcode (D23). -/
def ruleCount (p : Params) (rule : DecodeRule) (k : Opcode) : Nat :=
  match rule with
  | .DR_NONE => 0
  | .DR_R | .DR_JMP | .DR_RETN | .DR_PUSH | .DR_DECREF => 1
  | .DR_RR | .DR_RI21 | .DR_RI16 | .DR_RI8 | .DR_RI21S11 | .DR_BRC | .DR_CALL | .DR_LDG | .DR_LDBD_G | .DR_LDBD_C
  | .DR_LDBD_U | .DR_LDBD_S | .DR_LDLOC | .DR_MKSTR | .DR_PUSHLOC | .DR_POP | .DR_STORE | .DR_MOV => 2
  | .DR_RRR => 3
  | .DR_OPEN => p.openCount k

/-! ### Packed operand slots (spec/10_state.md R37, R38) -/

/-- The twelve fields of an operand slot, least-significant first (R37). -/
structure Slot where
  imm : BitVec 32
  iw : BitVec 6
  ik : BitVec 2
  iv : Bool
  r : RegIdx
  rv : Bool
  xop : BitVec 2
  bp : Bool
  iprel : Bool
  space : BitVec 2
  ref : Bool
  v : Bool
deriving DecidableEq, Repr

/-- The empty slot: all 55 bits zero (R25, R37). -/
def emptySlot : Slot := ⟨0, 0, 0, false, 0, false, 0, false, false, 0, false, false⟩

/-- A slot as its 55 bits (R37). -/
def Slot.bits (s : Slot) : BitVec 55 :=
  BitVec.ofBool s.v ++ BitVec.ofBool s.ref ++ s.space ++ BitVec.ofBool s.iprel ++ BitVec.ofBool s.bp ++ s.xop ++
    BitVec.ofBool s.rv ++ s.r ++ BitVec.ofBool s.iv ++ s.ik ++ s.iw ++ s.imm

/-- The fields of 55 bits (R37). -/
def slotOfBits (b : BitVec 55) : Slot where
  imm := b.extractLsb' 0 32
  iw := b.extractLsb' 32 6
  ik := b.extractLsb' 38 2
  iv := b.getLsbD 40
  r := b.extractLsb' 41 5
  rv := b.getLsbD 46
  xop := b.extractLsb' 47 2
  bp := b.getLsbD 49
  iprel := b.getLsbD 50
  space := b.extractLsb' 51 2
  ref := b.getLsbD 53
  v := b.getLsbD 54

/-- R37, field `ik`. -/
def kindBits : ImmKind → BitVec 2
  | .const => 0
  | .constBool => 1
  | .fixed => 2

/-- R37, field `ik`; 3 is never produced. -/
def kindOfBits (b : BitVec 2) : Option ImmKind :=
  if b = 0 then some .const else if b = 1 then some .constBool else if b = 2 then some .fixed else none

/-- R37, field `xop`. -/
def opBits : BinOp → BitVec 2
  | .add => 0
  | .sub => 1
  | .shl => 2
  | .shr => 3

/-- R37, field `xop`. -/
def opOfBits (b : BitVec 2) : BinOp :=
  if b = 0 then .add else if b = 1 then .sub else if b = 2 then .shl else .shr

/-- R37, field `space`. -/
def spaceBits : Space → BitVec 2
  | .code => 0
  | .global => 1
  | .unified => 2
  | .stack => 3

/-- R37, field `space`. -/
def spaceOfBits (b : BitVec 2) : Space :=
  if b = 0 then .code else if b = 1 then .global else if b = 2 then .unified else .stack

/-- R37, field `iw`: a declared width is 0 to 32. -/
def widthOfBits (b : BitVec 6) : Option (Fin 33) := if h : b.toNat < 33 then some ⟨b.toNat, h⟩ else none

/-- A leaf of R38: a register, an immediate, or a register joined to an immediate. -/
def packLeaf : Operand → Option Slot
  | .reg r => some { emptySlot with v := true, rv := true, r := r }
  | .imm x width kind => some { emptySlot with v := true, iv := true, imm := x, iw := BitVec.ofNat 6 width, ik := kindBits kind }
  | .expr (.reg r) op (.imm x width kind) =>
    some { emptySlot with v := true, rv := true, r := r, xop := opBits op, iv := true, imm := x, iw := BitVec.ofNat 6 width, ik := kindBits kind }
  | _ => none

/-- The inner operand of R38: a leaf, or a leaf wrapped as `bp + …` where it is not itself a leaf (so that an operand
has one packed form, R38). -/
def packInner (o : Operand) : Option Slot :=
  match packLeaf o with
  | some s => some s
  | none =>
    match o with
    | .expr (.reg r) .add x => if r = BP then (packLeaf x).map (fun s => { s with bp := true }) else none
    | _ => none

/-- The packed form of an operand, where it has one (R37, R38). -/
def packOperand : Operand → Option Slot
  | .ref inner space iprel => (packInner inner).map (fun s => { s with ref := true, space := spaceBits space, iprel := iprel })
  | o => packInner o

/-- The immediate a slot carries (R37). -/
def slotImm (s : Slot) : Option Operand :=
  match widthOfBits s.iw, kindOfBits s.ik with
  | some width, some kind => some (.imm s.imm width kind)
  | _, _ => none

/-- The leaf of R38; a slot with neither a register nor an immediate is never produced. -/
def slotLeaf (s : Slot) : Option Operand :=
  match s.rv, s.iv with
  | true, true => (slotImm s).map (fun i => .expr (.reg s.r) (opOfBits s.xop) i)
  | true, false => some (.reg s.r)
  | false, true => slotImm s
  | false, false => none

/-- The operand a slot with `v` = 1 denotes (R38). -/
def unpackSlot (s : Slot) : Option Operand :=
  if s.v then
    (slotLeaf s).map fun leaf =>
      let inner := if s.bp then .expr (.reg BP) .add leaf else leaf
      if s.ref then .ref inner (spaceOfBits s.space) s.iprel else inner
  else none

end Sys2Proof.Machine
end

