-- ==== Sys2Proof/Machine/Render.lean ====
section
/-! DEFINITION. The assembly text renderer (spec/46_text_renderer.md): operands, operand lists and lines. -/

namespace Sys2Proof.Machine

/-- The digits of a number in a base, most significant first, without leading zeros; the first argument bounds the
number of digits. -/
def digitsIn (base : Nat) : Nat → Nat → List Nat
  | 0, _ => []
  | fuel + 1, n => if n < base then [n] else digitsIn base fuel (n / base) ++ [n % base]

/-- One digit: `0`-`9`, then the letters `A`-`F` where `upper` is true and `a`-`f` where it is not. -/
def digitChar (upper : Bool) (d : Nat) : Char :=
  if d < 10 then Char.ofNat (48 + d) else if upper then Char.ofNat (55 + d) else Char.ofNat (87 + d)

/-- `DEC(n)`; no decimal digit is a letter. -/
def decText (n : Nat) : Text := (digitsIn 10 (n + 1) n).map (digitChar true)

/-- `HEXU(n)`; `RENDER_HEX_UPPER` gives the case of the letters (R6, D12). -/
def hexText (n : Nat) : Text := (digitsIn 16 (n + 1) n).map (digitChar Config.hexUpper)

/-- `pad2` of R212: zeros on the left up to two digits. -/
def padHex (t : Text) : Text := List.replicate (Config.hexMinDigits - t.length) '0' ++ t

/-- `HEX2(k)`: two hexadecimal digits, which the source itself makes uppercase (spec/10_state.md R29). -/
def hex2 (k : Opcode) : Text := [digitChar true (k.toNat / 16), digitChar true (k.toNat % 16)]

/-- R211. -/
def renderReg (r : RegIdx) : Text :=
  if r = BP then text "bp" else if r = SP then text "sp" else 'r' :: decText r.toNat

/-- R212, R213 and R216; the declared width does not appear in the text. -/
def renderImm (v : BitVec 32) (kind : ImmKind) : Text :=
  match kind with
  | .const => '#' :: padHex (hexText v.toNat) ++ ['h']
  | .constBool => if v = 0 then text "false" else text "true"
  | .fixed => decText (v.toNat >>> 11) ++ '.' :: decText (v.toNat &&& 0x7FF)

/-- R214. -/
def opText : BinOp → Text
  | .add => ['+']
  | .sub => ['-']
  | .shl => ['<', '<']
  | .shr => ['>', '>']

/-- R217. -/
def spaceLetter : Space → Char
  | .code => 'c'
  | .global => 'g'
  | .unified => 'u'
  | .stack => 's'

/-- `rop` (R211 to R217). -/
def renderOperand : Operand → Text
  | .reg r => renderReg r
  | .imm v _ kind => renderImm v kind
  | .expr l op r => renderOperand l ++ opText op ++ renderOperand r
  | .ref inner space iprel =>
    spaceLetter space :: text "::[" ++ (if iprel then ['+'] else []) ++ renderOperand inner ++ [']']

/-- `ropl` (R219). -/
def renderOperands : List Operand → Text
  | [] => []
  | [a] => renderOperand a
  | a :: b :: rest => renderOperand a ++ text ", " ++ renderOperands (b :: rest)

/-- `ljust` (R220). -/
def leftJustify (t : Text) (n : Nat) : Text := t ++ List.replicate (n - t.length) ' '

/-- A line from a mnemonic and operands, without the newline (R220). -/
def renderLine (mnemonic : Text) (operands : List Operand) : Text :=
  leftJustify mnemonic Config.mnemonicColumn ++ ' ' :: renderOperands operands

/-- The value of a decimal or uppercase hexadecimal digit; the inverse of `digitChar true`. -/
def digitValue (c : Char) : Nat := if c.toNat < 58 then c.toNat - 48 else c.toNat - 55

/-- The number a text of digits spells in a base, the first digit most significant. -/
def readDigits (base : Nat) (t : Text) : Nat := t.foldl (fun n c => n * base + digitValue c) 0

/-- The newline of the stream form, U+000A (R221). -/
def newline : Char := '\n'

/-- The byte of a character: its ASCII code (R224), a free value for a character outside ASCII (DESIGN CHOICE 21). -/
def asciiByte (c : Char) : Byte := if c.toNat < 128 then BitVec.ofNat 8 c.toNat else Config.nonAsciiByte c

/-- The bytes of a text, one byte per character, first character first (R224). -/
def asciiBytes (t : Text) : List Byte := t.map asciiByte

end Sys2Proof.Machine
end

