-- ==== Sys2Proof/Machine/State.lean ====
section
/-! DEFINITION. The state of the model: the ports of the block (spec/10_state.md R24, R25), the decoded instruction
(R29), the line, and the host's side of the stream form (spec/45_fallback_and_orchestration.md R203). The block itself
stores nothing (R20): every output is a function of `wordI`, which every step re-establishes. -/

namespace Sys2Proof.Machine

/-- The decoder's result (R29). -/
structure DecodedInstruction where
  mnemonic : Text
  opcode : Opcode
  hit : Bool
  flags : Flags
  operands : List Operand
deriving DecidableEq, Repr

/-- The output ports (R25). -/
structure Ports where
  opcodeO : BitVec 6
  hitO : Bool
  flagsO : BitVec 9
  nopsO : BitVec 2
  op0O : BitVec 55
  op1O : BitVec 55
  op2O : BitVec 55
deriving DecidableEq, Repr

/-- The machine: the block between its ports, and the host that feeds it a byte stream and writes its lines.
`consumed`, `stream` and `listing` are the model's own fields for the stream form of R203
(DESIGN CHOICE 4, notes/assumptions/4.md). -/
structure State where
  /-- The input port `word_i` (R24). -/
  wordI : Word
  /-- The output ports (R25). -/
  ports : Ports
  /-- The abstract result the ports carry, the normative one (R29, R38). -/
  decoded : DecodedInstruction
  /-- The renderer's result for `decoded`, without a newline (R220). -/
  line : Text
  /-- The stream bytes the host has already presented, in order (R203). -/
  consumed : List Byte
  /-- The stream bytes still to be presented, in order (R51, R203). -/
  stream : List Byte
  /-- The text the host has written, one newline-terminated line per presented word (R203, R221). -/
  listing : Text
deriving DecidableEq, Repr

/-- The source's two error kinds (spec/60_exceptions.md R240, R241). The block raises neither (R243): `exec` and
`step` never answer a fault. -/
inductive Fault
  /-- A number that is no 32-bit word; raised by `decodeNat` alone, for that one call (R240). Safe. -/
  | invalidWord
  /-- A range outside `0 ≤ start ≤ stop ≤ 32`; raised by `extractChecked` alone (R241). Safe. -/
  | invalidBitRange
deriving DecidableEq, Repr

/-- Why an instruction has no meaning in the model. -/
inductive Refusal
  /-- An arm of `exec` without a meaning would answer this; no arm does, and no meaning may. Safe. -/
  | notModelled (mnemonic : String)
deriving DecidableEq, Repr

/-- The machine before anything has been presented. No item of the block has a reset value and its outputs are at
every instant those for `word_i` (spec/70_reset_and_hazards.md R260), so the outputs are those for the word that
stands on `word_i`; that this word is 0 is DESIGN CHOICE 3 (notes/assumptions/3.md). The outputs for it are the
spec's vectors S5 and Q1. The host has presented and written nothing. -/
def State.reset : State where
  wordI := 0
  ports :=
    { opcodeO := 0
      hitO := true
      flagsO := packFlags ((Config.params.useChg 0).withControl false false false)
      nopsO := 3
      op0O := 0x40400000000000
      op1O := 0x40400000000000
      op2O := 0x40400000000000 }
  decoded :=
    { mnemonic := text "add"
      opcode := 0
      hit := true
      flags := (Config.params.useChg 0).withControl false false false
      operands := [.reg 0, .reg 0, .reg 0] }
  line := text "add              r0, r0, r0"
  consumed := []
  stream := []
  listing := []

end Sys2Proof.Machine
end

