-- ==== Sys2Proof/Machine/Ops.lean ====
section
/-! DEFINITION. The shared operations: the result of an entry, driving the outputs, presenting a word, writing a line,
and the refusing forms of extraction and decoding (spec/60_exceptions.md R240, R241). The block takes no exception and
returns from none (R243, R246, R247), so there is no operation for either. -/

namespace Sys2Proof.Machine

/-- `render` (R220): the line of a decoded instruction. -/
def render (d : DecodedInstruction) : Text := renderLine d.mnemonic d.operands

/-- The 55 bits on the operand port of place `k` (R25, R37): all zero without an operand, the packed form of an
operand that has one, else a free value (R38, DESIGN CHOICE 2). -/
def slotAt (w : Word) (operands : List Operand) (k : Nat) : BitVec 55 :=
  match operands[k]? with
  | none => emptySlot.bits
  | some o =>
    match packOperand o with
    | some s => s.bits
    | none => Config.uncarriedSlot w k

/-- The output ports for a decoded instruction (R25, R202). -/
def portsOf (w : Word) (d : DecodedInstruction) : Ports where
  opcodeO := d.opcode
  hitO := d.hit
  flagsO := packFlags d.flags
  nopsO := BitVec.ofNat 2 d.operands.length
  op0O := slotAt w d.operands 0
  op1O := slotAt w d.operands 1
  op2O := slotAt w d.operands 2

/-- The block's outputs become those of `d` for the word on `word_i`, and the renderer's line that of `d`. -/
def emit (d : DecodedInstruction) (s : State) : State :=
  { s with ports := portsOf s.wordI d, decoded := d, line := render d }

/-- The result for a hit: mnemonic and flags are copied from the table (R202). -/
def hitResult (k : Opcode) (e : Entry) (operands : List Operand) : DecodedInstruction :=
  { mnemonic := e.mnemonic, opcode := k, hit := true, flags := e.flags, operands := operands }

/-- The result for a pinned entry of the block's table (R33). -/
def pinnedResult (m : Pinned) (operands : List Operand) : DecodedInstruction :=
  hitResult m.opcode (pinnedEntry Config.params m) operands

/-- The result for a named entry of the block's table (R35). -/
def namedResult (m : Unnumbered) (operands : List Operand) : DecodedInstruction :=
  hitResult (Config.params.opcOf m) (unnumberedEntry Config.params m) operands

/-- The result for an unnamed row of the block's table (R36). -/
def rowResult (k : Opcode) (operands : List Operand) : DecodedInstruction :=
  hitResult k (rowEntry Config.params k (Config.params.row k)) operands

/-- The result for a miss: `ud_<XX>`, no operands, all flags 0 (R200). -/
def missResult (k : Opcode) : DecodedInstruction :=
  { mnemonic := text "ud_" ++ hex2 k, opcode := k, hit := false, flags := Flags.zero, operands := drNONE }

/-- The host drives `word_i` with the next word of its stream (R51, R262). -/
def present (w : Word) (rest : List Byte) (s : State) : State :=
  { s with wordI := w, consumed := s.consumed ++ bytesOfWord w, stream := rest }

/-- The host writes the rendered line and one line feed (R203, R221). -/
def writeLine (s : State) : State := { s with listing := s.listing ++ (s.line ++ [newline]) }

/-- The host's stream with the next four bytes replaced by those of `w`. -/
def placeWord (w : Word) (s : State) : State := { s with stream := bytesOfWord w ++ s.stream.drop 4 }

/-- `extract` as the source's contract has it: a range outside `0 ≤ start ≤ stop ≤ 32` is refused (R241). -/
def extractChecked (w : Word) (start stop : Nat) : Except Fault Nat :=
  if start ≤ stop ∧ stop ≤ 32 then .ok (extract w start stop) else .error .invalidBitRange

end Sys2Proof.Machine
end

