-- ==== Sys2Proof/Machine/Control.lean ====
section
/-! DEFINITION. Outputs for control transfer (spec/41_control_transfer.md). The block transfers no control (R2, R22). -/

namespace Sys2Proof.Machine

/-- `jmp` (R134). -/
def execJmp (imm21 : BitVec 21) (s : State) : Host.Outcome State Fault Refusal :=
  .next (emit (pinnedResult .jmp (drJMP imm21)) s)

/-- `call` (R137). -/
def execCall (ra : RegIdx) (fidx20 : BitVec 20) (flag0 : BitVec 1) (s : State) : Host.Outcome State Fault Refusal :=
  .next (emit (pinnedResult .call (drCALL ra fidx20 flag0)) s)

/-- `jz` (R131). -/
def execJz (ra : RegIdx) (imm21 : BitVec 21) (s : State) : Host.Outcome State Fault Refusal :=
  .next (emit (namedResult .jz (drBRC ra imm21)) s)

/-- `jnz` (R132). -/
def execJnz (ra : RegIdx) (imm21 : BitVec 21) (s : State) : Host.Outcome State Fault Refusal :=
  .next (emit (namedResult .jnz (drBRC ra imm21)) s)

/-- `retn` (R139). -/
def execRetn (imm16 : BitVec 16) (s : State) : Host.Outcome State Fault Refusal :=
  .next (emit (namedResult .retn (drRETN imm16)) s)

end Sys2Proof.Machine
end

