-- ==== Sys2Proof/Machine/Fallback.lean ====
section
/-! DEFINITION. Outputs for the rows of `TABLE` that spec/opcode_table.json does not list (spec/10_state.md R36) and for opcodes without an
entry (spec/45_fallback_and_orchestration.md R200). -/

namespace Sys2Proof.Machine

/-- Any other row of `TABLE` (R36): its rule on the whole word. -/
def execRow (opc : Opcode) (low26 : BitVec 26) (s : State) : Host.Outcome State Fault Refusal :=
  .next (emit (rowResult opc (ruleOperands Config.params (Config.params.row opc).rule (joinWord opc low26))) s)

/-- `ud_<XX>` (R200). -/
def execUd (opc : Opcode) (s : State) : Host.Outcome State Fault Refusal :=
  .next (emit (missResult opc) s)

end Sys2Proof.Machine
end

