-- ==== Sys2Proof/Machine/Loads.lean ====
section
/-! DEFINITION. Outputs for the loads and `mkstr` (spec/42_loads.md). The block loads nothing (R50). -/

namespace Sys2Proof.Machine

/-- `ld_local32b` (R156). -/
def execLdLocal32b (ra : RegIdx) (imm16 : BitVec 16) (s : State) : Host.Outcome State Fault Refusal :=
  .next (emit (namedResult .ldLocal32b (drLDLOC ra imm16)) s)

/-- `mkstr` (R158). -/
def execMkstr (ra : RegIdx) (imm21 : BitVec 21) (s : State) : Host.Outcome State Fault Refusal :=
  .next (emit (namedResult .mkstr (drMKSTR ra imm21)) s)

/-- A row bound to `DR_LDG` (R150, R36). -/
def execDrLDG (opc : Opcode) (ra : RegIdx) (imm21 : BitVec 21) (s : State) : Host.Outcome State Fault Refusal :=
  .next (emit (rowResult opc (drLDG ra imm21)) s)

/-- A row bound to `DR_LDBD_G` (R151, R36). -/
def execDrLDBDG (opc : Opcode) (ra rb : RegIdx) (imm16 : BitVec 16) (s : State) : Host.Outcome State Fault Refusal :=
  .next (emit (rowResult opc (drLDBD .global ra rb imm16)) s)

/-- A row bound to `DR_LDBD_C` (R152, R36). -/
def execDrLDBDC (opc : Opcode) (ra rb : RegIdx) (imm16 : BitVec 16) (s : State) : Host.Outcome State Fault Refusal :=
  .next (emit (rowResult opc (drLDBD .code ra rb imm16)) s)

/-- A row bound to `DR_LDBD_U` (R153, R36). -/
def execDrLDBDU (opc : Opcode) (ra rb : RegIdx) (imm16 : BitVec 16) (s : State) : Host.Outcome State Fault Refusal :=
  .next (emit (rowResult opc (drLDBD .unified ra rb imm16)) s)

/-- A row bound to `DR_LDBD_S` (R154, R36). -/
def execDrLDBDS (opc : Opcode) (ra rb : RegIdx) (imm16 : BitVec 16) (s : State) : Host.Outcome State Fault Refusal :=
  .next (emit (rowResult opc (drLDBD .stack ra rb imm16)) s)

end Sys2Proof.Machine
end

