-- ==== Sys2Proof/Machine/Register.lean ====
section
/-! DEFINITION. Outputs for the register forms and register + immediate forms (spec/40_register_forms.md). -/

namespace Sys2Proof.Machine

/-- `add` (R117). -/
def execAdd (ra rb rc : RegIdx) (s : State) : Host.Outcome State Fault Refusal :=
  .next (emit (pinnedResult .add (drRRR ra rb rc)) s)

/-- A row bound to `DR_R` (R110, R36). -/
def execDrR (opc : Opcode) (ra : RegIdx) (s : State) : Host.Outcome State Fault Refusal :=
  .next (emit (rowResult opc (drR ra)) s)

/-- A row bound to `DR_RR` (R111, R36). -/
def execDrRR (opc : Opcode) (ra rb : RegIdx) (s : State) : Host.Outcome State Fault Refusal :=
  .next (emit (rowResult opc (drRR ra rb)) s)

/-- A row bound to `DR_RRR` (R112, R36). -/
def execDrRRR (opc : Opcode) (ra rb rc : RegIdx) (s : State) : Host.Outcome State Fault Refusal :=
  .next (emit (rowResult opc (drRRR ra rb rc)) s)

/-- A row bound to `DR_RI21` (R113, R36). -/
def execDrRI21 (opc : Opcode) (ra : RegIdx) (imm21 : BitVec 21) (s : State) : Host.Outcome State Fault Refusal :=
  .next (emit (rowResult opc (drRI21 ra imm21)) s)

/-- A row bound to `DR_RI16` (R114, R36). -/
def execDrRI16 (opc : Opcode) (ra : RegIdx) (imm16 : BitVec 16) (s : State) : Host.Outcome State Fault Refusal :=
  .next (emit (rowResult opc (drRI16 ra imm16)) s)

/-- A row bound to `DR_RI8` (R115, R36). -/
def execDrRI8 (opc : Opcode) (ra : RegIdx) (imm8 : BitVec 8) (s : State) : Host.Outcome State Fault Refusal :=
  .next (emit (rowResult opc (drRI8 ra imm8)) s)

/-- A row bound to `DR_RI21S11` (R116, R36). -/
def execDrRI21S11 (opc : Opcode) (ra : RegIdx) (imm21 : BitVec 21) (s : State) : Host.Outcome State Fault Refusal :=
  .next (emit (rowResult opc (drRI21S11 ra imm21)) s)

end Sys2Proof.Machine
end

