-- ==== Sys2Proof/Machine/Stack.lean ====
section
/-! DEFINITION. Outputs for `push`, `push_local32` and `pop` (spec/43_stack.md). The block holds no stack. -/

namespace Sys2Proof.Machine

/-- `push` (R171). -/
def execPush (ra : RegIdx) (imm21 : BitVec 21) (s : State) : Host.Outcome State Fault Refusal :=
  .next (emit (namedResult .push (drPUSH ra imm21)) s)

/-- `push_local32` (R173). -/
def execPushLocal32 (flag : BitVec 5) (imm16 : BitVec 16) (s : State) : Host.Outcome State Fault Refusal :=
  .next (emit (namedResult .pushLocal32 (drPUSHLOC flag imm16)) s)

/-- `pop` (R175). -/
def execPop (pop22 : BitVec 22) (pop4 : BitVec 4) (s : State) : Host.Outcome State Fault Refusal :=
  .next (emit (namedResult .pop (drPOP pop22 pop4)) s)

end Sys2Proof.Machine
end

