-- ==== Sys2Proof/Machine/Store.lean ====
section
/-! DEFINITION. Outputs for the stores, reference counting, `mov` and `unk_36` (spec/44_store_refcount_mov.md). -/

namespace Sys2Proof.Machine

/-- `st_mem32` (R181). -/
def execStMem32 (ra rb : RegIdx) (imm16 : BitVec 16) (s : State) : Host.Outcome State Fault Refusal :=
  .next (emit (pinnedResult .stMem32 (drSTORE ra rb imm16)) s)

/-- `st_mem8` (R182). -/
def execStMem8 (ra rb : RegIdx) (imm16 : BitVec 16) (s : State) : Host.Outcome State Fault Refusal :=
  .next (emit (namedResult .stMem8 (drSTORE ra rb imm16)) s)

/-- `st_gc` (R183). -/
def execStGc (ra rb : RegIdx) (imm16 : BitVec 16) (s : State) : Host.Outcome State Fault Refusal :=
  .next (emit (namedResult .stGc (drSTORE ra rb imm16)) s)

/-- `decref` (R186). -/
def execDecref (ra : RegIdx) (imm21 : BitVec 21) (s : State) : Host.Outcome State Fault Refusal :=
  .next (emit (namedResult .decref (drDECREF ra imm21)) s)

/-- `mkgc` (R187): the operands are those of the open rule `RULE_mkgc` on the whole word. -/
def execMkgc (low26 : BitVec 26) (s : State) : Host.Outcome State Fault Refusal :=
  .next (emit (namedResult .mkgc (openOperands Config.params (Config.params.opcOf .mkgc) (joinWord (Config.params.opcOf .mkgc) low26))) s)

/-- `mov` (R189). -/
def execMov (ra rb : RegIdx) (imm16 : BitVec 16) (s : State) : Host.Outcome State Fault Refusal :=
  .next (emit (pinnedResult .mov (drMOV ra rb imm16)) s)

/-- `unk_36` (R190): a hit with flags 0; the operands are those of the open rule `RULE_unk_36` on the whole word. -/
def execUnk36 (low26 : BitVec 26) (s : State) : Host.Outcome State Fault Refusal :=
  .next (emit (pinnedResult .unk36 (openOperands Config.params Pinned.unk36.opcode (joinWord Pinned.unk36.opcode low26))) s)

end Sys2Proof.Machine
end

