-- ==== Sys2Proof/Machine/Dispatch.lean ====
section
/-! DEFINITION. What the block outputs for each instruction: one arm per constructor of `Instr`. -/

namespace Sys2Proof.Machine

def exec (i : Instr) (s : State) : Host.Outcome State Fault Refusal :=
  match i with
  | .add ra rb rc => Sys2Proof.Machine.execAdd ra rb rc s
  | .jmp imm21 => Sys2Proof.Machine.execJmp imm21 s
  | .call ra fidx20 flag0 => Sys2Proof.Machine.execCall ra fidx20 flag0 s
  | .mov ra rb imm16 => Sys2Proof.Machine.execMov ra rb imm16 s
  | .stMem32 ra rb imm16 => Sys2Proof.Machine.execStMem32 ra rb imm16 s
  | .unk36 low26 => Sys2Proof.Machine.execUnk36 low26 s
  | .jz ra imm21 => Sys2Proof.Machine.execJz ra imm21 s
  | .jnz ra imm21 => Sys2Proof.Machine.execJnz ra imm21 s
  | .retn imm16 => Sys2Proof.Machine.execRetn imm16 s
  | .ldLocal32b ra imm16 => Sys2Proof.Machine.execLdLocal32b ra imm16 s
  | .mkstr ra imm21 => Sys2Proof.Machine.execMkstr ra imm21 s
  | .push ra imm21 => Sys2Proof.Machine.execPush ra imm21 s
  | .pushLocal32 flag imm16 => Sys2Proof.Machine.execPushLocal32 flag imm16 s
  | .pop pop22 pop4 => Sys2Proof.Machine.execPop pop22 pop4 s
  | .stMem8 ra rb imm16 => Sys2Proof.Machine.execStMem8 ra rb imm16 s
  | .stGc ra rb imm16 => Sys2Proof.Machine.execStGc ra rb imm16 s
  | .decref ra imm21 => Sys2Proof.Machine.execDecref ra imm21 s
  | .mkgc low26 => Sys2Proof.Machine.execMkgc low26 s
  | .drR opc ra => Sys2Proof.Machine.execDrR opc ra s
  | .drRR opc ra rb => Sys2Proof.Machine.execDrRR opc ra rb s
  | .drRRR opc ra rb rc => Sys2Proof.Machine.execDrRRR opc ra rb rc s
  | .drRI21 opc ra imm21 => Sys2Proof.Machine.execDrRI21 opc ra imm21 s
  | .drRI16 opc ra imm16 => Sys2Proof.Machine.execDrRI16 opc ra imm16 s
  | .drRI8 opc ra imm8 => Sys2Proof.Machine.execDrRI8 opc ra imm8 s
  | .drRI21S11 opc ra imm21 => Sys2Proof.Machine.execDrRI21S11 opc ra imm21 s
  | .drLDG opc ra imm21 => Sys2Proof.Machine.execDrLDG opc ra imm21 s
  | .drLDBDG opc ra rb imm16 => Sys2Proof.Machine.execDrLDBDG opc ra rb imm16 s
  | .drLDBDC opc ra rb imm16 => Sys2Proof.Machine.execDrLDBDC opc ra rb imm16 s
  | .drLDBDU opc ra rb imm16 => Sys2Proof.Machine.execDrLDBDU opc ra rb imm16 s
  | .drLDBDS opc ra rb imm16 => Sys2Proof.Machine.execDrLDBDS opc ra rb imm16 s
  | .row opc low26 => Sys2Proof.Machine.execRow opc low26 s
  | .ud opc => Sys2Proof.Machine.execUd opc s

end Sys2Proof.Machine
end

