-- ==== Sys2Proof/Machine/Step.lean ====
section
/-! DEFINITION. One step: the host presents the next word of its stream, the block decodes it, the host writes the
line (spec/45_fallback_and_orchestration.md R203). With no whole word left, the block decodes the word that stands on
`word_i` and nothing is written. -/

namespace Sys2Proof.Machine

/-- After the block has decoded a presented word, the host writes the line (R203). -/
def afterPresented : Host.Outcome State Fault Refusal → Host.Outcome State Fault Refusal
  | .next s => .next (writeLine s)
  | .fault r => .fault r
  | .refused r => .refused r

/-- One decode. The block is combinational (R265): a step has no intermediate state. -/
def step (s : State) : Host.Outcome State Fault Refusal :=
  match takeWord s.stream with
  | some (w, rest) => afterPresented (exec (decode w) (present w rest s))
  | none => exec (decode s.wordI) s

/-- `s` with the instruction whose bits are `w` as the next word of the host's stream, where `step` takes its next
instruction. A number that is no 32-bit word leaves `s` as it is (R240). -/
def State.withFetchWord (s : State) (_nbits w : Nat) : State :=
  match wordOfNat w with
  | some v => placeWord v s
  | none => s

end Sys2Proof.Machine
end

