-- ==== Sys2Proof/Machine/Block.lean ====
section
/-! DEFINITION. The block's function as the spec writes it: `decode(TABLE, w)` (spec/45_fallback_and_orchestration.md
R202), the stream form `disassemble` (R203), and the refusing form over natural numbers (spec/60_exceptions.md R240). -/

namespace Sys2Proof.Machine

/-- `decode(TABLE, w)` of R202. -/
def decodeInstruction (p : Params) (w : Word) : DecodedInstruction :=
  let k := (extractFields w).opc
  match tableEntry p k with
  | some e => hitResult k e (ruleOperands p e.rule w)
  | none => missResult k

/-- `decode` of an unbounded number: a number from 2^32 on is refused, not reduced (R240, D17). -/
def decodeNat (p : Params) (n : Nat) : Except Fault DecodedInstruction :=
  match wordOfNat n with
  | some w => .ok (decodeInstruction p w)
  | none => .error .invalidWord

/-- The line of a word. -/
def lineOf (p : Params) (w : Word) : Text := render (decodeInstruction p w)

/-- `disassemble(TABLE, bytes)` of R203: one newline-terminated line per word, in order. Fewer than four bytes at the
end give no line (what a host does with them is not in the source, R52). -/
def disassemble (p : Params) : List Byte → Text
  | b0 :: b1 :: b2 :: b3 :: rest => lineOf p (wordOfBytes b0 b1 b2 b3) ++ [newline] ++ disassemble p rest
  | _ => []

end Sys2Proof.Machine
end

