-- ==== Sys2Proof/Machine/Metadata.lean ====
section
/-! DEFINITION. What a host reads off a decoded instruction: the jump-target operand and the successors
(spec/41_control_transfer.md R141 to R143), and the mnemonic behind the ports. -/

namespace Sys2Proof.Machine

/-- `MNEM(opcode_o, hit_o)`, the mnemonic a renderer takes from the ports (spec/10_state.md R25, R29). On the ports of the
block `hit` is 1 only where the table has an entry. -/
def mnem (p : Params) (k : Opcode) (hit : Bool) : Text :=
  match hit, tableEntry p k with
  | true, some e => e.mnemonic
  | true, none | false, _ => text "ud_" ++ hex2 k

/-- Whether an operand is a Reference into the CODE space. -/
def isCodeRef : Operand → Bool
  | .ref _ .code _ => true
  | .ref _ .global _ | .ref _ .unified _ | .ref _ .stack _ => false
  | .reg _ | .imm _ _ _ | .expr _ _ _ => false

/-- The jump-target operand of an instruction with JUMP = 1: its one operand of the variant `Ref(_, CODE, _)` (R142, D7). Of
an unnamed row with JUMP = 1 and several such operands it is the first, and one with none has no jump target:
DESIGN CHOICE 23 (notes/assumptions/23.md); unsafe. -/
def jumpTarget (d : DecodedInstruction) : Option Operand :=
  if d.flags.jump then d.operands.find? isCodeRef else none

/-- The target operand of an instruction with CALL = 1: operand 1. R142 says so of `call` alone; that operand 1 is also the
target of an unnamed row with CALL = 1 is DESIGN CHOICE 22 (notes/assumptions/22.md); unsafe. -/
def callTarget (d : DecodedInstruction) : Option Operand :=
  if d.flags.call then d.operands.head? else none

/-- How a host reads an IP-relative displacement, open in the source and outside the block (R141, D21):
`BRANCH_BASE` (the branch word's address, or that of the next word) and `BRANCH_SIGNED`. -/
structure BranchReading where
  fromNext : Bool
  signed : Bool
deriving DecidableEq, Repr

/-- The literal reading of R141: `target = A + (imm21 << 2)`. -/
def literalReading : BranchReading := ⟨false, false⟩

/-- A displacement of 23 bits as a host reads it (R141). -/
def readDisp (h : BranchReading) (v : BitVec 32) : Int :=
  if h.signed then (v.setWidth 23).toInt else (v.toNat : Int)

/-- The address a jump-target operand names at the branch word's byte address `A`, where a static host can tell it. Addresses
are integers without a width: they do not wrap, and under a signed reading they may be negative. The width and the wrap-around
of an address are not in the source (R22, N8). DESIGN CHOICE 20 (notes/assumptions/20.md); unsafe. -/
def targetAddress (h : BranchReading) (A : Nat) : Operand → Option Int
  | .ref (.imm v _ _) _ true => some ((if h.fromNext then (A : Int) + instructionLength else (A : Int)) + readDisp h v)
  | .ref (.imm v _ _) _ false => some (v.toNat : Int)
  | .ref (.reg _) _ _ | .ref (.expr _ _ _) _ _ | .ref (.ref _ _ _) _ _ => none
  | .reg _ | .imm _ _ _ | .expr _ _ _ => none

/-- The successors of the instruction at byte address `A` (R143): the next word unless NOFALL, and the jump target
when JUMP, where a static host can tell it (DESIGN CHOICE 12, and 23 for a row whose target R142 does not give). The next
word is at `A + 4` without wrap-around, for `A` of any size: DESIGN CHOICE 20 (notes/assumptions/20.md); unsafe. -/
def successors (h : BranchReading) (A : Nat) (d : DecodedInstruction) : List Int :=
  (if d.flags.noFall then [] else [(A : Int) + instructionLength]) ++ ((jumpTarget d).bind (targetAddress h A)).toList

end Sys2Proof.Machine
end

