-- ==== Sys2Proof/Machine/Selector.lean ====
section
/-! DEFINITION. The block in hardware form (spec/30_encoding.md R78): the candidate operands as packed slots (R79, by
the Packed clauses of spec files 40 to 45) and the select table of the three operand multiplexers (R80). -/

namespace Sys2Proof.Machine

/-- A slot holding a register. -/
def regSlot (r : RegIdx) : Slot := { emptySlot with v := true, rv := true, r := r }

/-- A slot holding an immediate. -/
def immSlot (imm : BitVec 32) (iw : BitVec 6) (ik : BitVec 2) : Slot :=
  { emptySlot with v := true, iv := true, imm := imm, iw := iw, ik := ik }

/-- A slot holding register `r` plus an immediate of kind CONST. -/
def sumSlot (r : RegIdx) (imm : BitVec 32) (iw : BitVec 6) : Slot :=
  { emptySlot with v := true, rv := true, r := r, iv := true, imm := imm, iw := iw }

/-- A slot made a Reference. -/
def refSlot (space : BitVec 2) (iprel : Bool) (s : Slot) : Slot := { s with ref := true, space := space, iprel := iprel }

/-- The candidate operands, the inputs of the multiplexers (R79). -/
inductive Candidate
  | kRA | kRB | kRC
  | kI21 | kI16 | kI8 | kI21S11
  | kBRC | kJMP | kG21
  | kBD (space : Space)
  | kFP16 | kFP21 | kFPR21
  | kBOOL5 | kFIDX | kFLAG | kPOP22 | kPOP4 | kZERO32
  | kMEM (space : Space)
  | kRBI16
  | kEMPTY
deriving DecidableEq, Repr

/-- A candidate as wires from the extracted fields (R79). -/
def candidateSlot (f : Fields) : Candidate → Slot
  | .kRA => regSlot f.ra
  | .kRB => regSlot f.rb
  | .kRC => regSlot f.rc
  | .kI21 => immSlot (f.imm21.setWidth 32) 21 0
  | .kI16 => immSlot (f.imm16.setWidth 32) 16 0
  | .kI8 => immSlot (f.imm8.setWidth 32) 8 0
  | .kI21S11 => immSlot (f.imm21 ++ 0#11) 32 0
  | .kBRC => refSlot 0 true (immSlot ((f.imm21 ++ 0#2).setWidth 32) 23 0)
  | .kJMP => refSlot 0 true (immSlot ((f.imm21 ++ 0#2).setWidth 32) 21 0)
  | .kG21 => refSlot 1 false (immSlot (f.imm21.setWidth 32) 21 0)
  | .kBD space => refSlot (spaceBits space) false (sumSlot f.rb (f.imm16.setWidth 32) 16)
  | .kFP16 => refSlot 3 false (sumSlot 30 (f.imm16.setWidth 32) 16)
  | .kFP21 => refSlot 3 false (sumSlot 30 (f.imm21.setWidth 32) 21)
  | .kFPR21 => refSlot 3 false { sumSlot f.ra (f.imm21.setWidth 32) 21 with bp := true }
  | .kBOOL5 => immSlot (f.ra.setWidth 32) 5 1
  | .kFIDX => immSlot (f.fidx20.setWidth 32) 20 0
  | .kFLAG => immSlot (f.flag0.setWidth 32) 1 1
  | .kPOP22 => immSlot (f.pop22.setWidth 32) 22 0
  | .kPOP4 => immSlot (f.pop4.setWidth 32) 4 0
  | .kZERO32 => immSlot 0 32 0
  | .kMEM space => refSlot (spaceBits space) false (regSlot f.ra)
  | .kRBI16 => sumSlot f.rb (f.imm16.setWidth 32) 16
  | .kEMPTY => emptySlot

/-- What the three multiplexers pick, with `nops` (R80). -/
structure Selection where
  slot0 : Candidate
  slot1 : Candidate
  slot2 : Candidate
  nops : BitVec 2
deriving DecidableEq, Repr

/-- The select table (R80): a function of the entry's decode rule and the mode predicates only (R78). An open rule
has no row in it. -/
def select (rule : DecodeRule) (m : Modes) : Option Selection :=
  match rule with
  | .DR_NONE => some ⟨.kEMPTY, .kEMPTY, .kEMPTY, 0⟩
  | .DR_R => some ⟨.kRA, .kEMPTY, .kEMPTY, 1⟩
  | .DR_RR => some ⟨.kRA, .kRB, .kEMPTY, 2⟩
  | .DR_RRR => some ⟨.kRA, .kRB, .kRC, 3⟩
  | .DR_RI21 => some ⟨.kRA, .kI21, .kEMPTY, 2⟩
  | .DR_RI16 => some ⟨.kRA, .kI16, .kEMPTY, 2⟩
  | .DR_RI8 => some ⟨.kRA, .kI8, .kEMPTY, 2⟩
  | .DR_RI21S11 => some ⟨.kRA, .kI21S11, .kEMPTY, 2⟩
  | .DR_BRC => some ⟨.kRA, .kBRC, .kEMPTY, 2⟩
  | .DR_JMP => some ⟨.kJMP, .kEMPTY, .kEMPTY, 1⟩
  | .DR_CALL => some ⟨if m.raZero then .kFIDX else .kRA, .kFLAG, .kEMPTY, 2⟩
  | .DR_RETN => some ⟨.kI16, .kEMPTY, .kEMPTY, 1⟩
  | .DR_LDG => some ⟨.kRA, .kG21, .kEMPTY, 2⟩
  | .DR_LDBD_G => some ⟨.kRA, .kBD .global, .kEMPTY, 2⟩
  | .DR_LDBD_C => some ⟨.kRA, .kBD .code, .kEMPTY, 2⟩
  | .DR_LDBD_U => some ⟨.kRA, .kBD .unified, .kEMPTY, 2⟩
  | .DR_LDBD_S => some ⟨.kRA, .kBD .stack, .kEMPTY, 2⟩
  | .DR_LDLOC => some ⟨.kRA, .kFP16, .kEMPTY, 2⟩
  | .DR_MKSTR => some ⟨.kRA, .kG21, .kEMPTY, 2⟩
  | .DR_PUSH => some ⟨if m.raBp then .kI21 else .kRA, .kEMPTY, .kEMPTY, 1⟩
  | .DR_PUSHLOC => some ⟨.kBOOL5, .kFP16, .kEMPTY, 2⟩
  | .DR_POP => some ⟨.kPOP22, .kPOP4, .kEMPTY, 2⟩
  | .DR_STORE =>
    some ⟨if m.raBp then .kFP16 else if m.i16Zero then .kMEM .global else if m.i16One then .kMEM .stack else .kMEM .unified,
      if m.rbSp then .kZERO32 else .kRB, .kEMPTY, 2⟩
  | .DR_DECREF => some ⟨if m.raBp then .kFP21 else .kFPR21, .kEMPTY, .kEMPTY, 1⟩
  | .DR_MOV => some ⟨.kRA, if m.i16Zero then .kRB else .kRBI16, .kEMPTY, 2⟩
  | .DR_OPEN => none

/-- The output ports of the multiplexer network for a table entry (R78 to R81); `none` for an open rule. -/
def selectorHit (f : Fields) (e : Entry) : Option Ports :=
  (select e.rule f.modes).map fun sel =>
    { opcodeO := f.opc
      hitO := true
      flagsO := packFlags e.flags
      nopsO := sel.nops
      op0O := (candidateSlot f sel.slot0).bits
      op1O := (candidateSlot f sel.slot1).bits
      op2O := (candidateSlot f sel.slot2).bits }

/-- The output ports of the multiplexer network for an empty slot of the table: all three slots empty (R80, R81). -/
def selectorMiss (f : Fields) : Ports :=
  { opcodeO := f.opc, hitO := false, flagsO := 0, nopsO := 0, op0O := emptySlot.bits, op1O := emptySlot.bits, op2O := emptySlot.bits }

/-- The output ports of the block in hardware form: extractor, table lookup and multiplexers side by side (R78). -/
def selectorPorts (p : Params) (w : Word) : Option Ports :=
  let f := extractFields w
  match tableEntry p f.opc with
  | some e => selectorHit f e
  | none => some (selectorMiss f)

end Sys2Proof.Machine
end

