-- ==== Sys2Proof/Safety.lean ====
section
/-! DEFINITION. What a good state and a good step of the block are, in the terms the statements use. -/

namespace Sys2Proof.Machine

/-- The outputs are those of `decode(TABLE, word_i)` (spec/70_reset_and_hazards.md R260): the abstract result, the
ports that carry it, and the line. -/
def OutputsFollowInput (s : State) : Prop :=
  s.decoded = decodeInstruction Config.params s.wordI ∧ s.ports = portsOf s.wordI s.decoded ∧ s.line = render s.decoded

/-- The host has presented whole words only, and has written the line of each, in order (R52, R203). -/
def ListingFollowsStream (s : State) : Prop :=
  s.consumed.length % 4 = 0 ∧ s.listing = disassemble Config.params s.consumed

/-- `t` is `s` with the block's outputs those of `d`, and nothing else changed. -/
def OutputsBecome (d : DecodedInstruction) (s t : State) : Prop :=
  t = { s with decoded := d, ports := portsOf s.wordI d, line := render d }

/-- The bits `[start, stop)` of a word by R8's formula, as a bit vector of a given width (spec/00_scope.md R7, R8). -/
def slice {n : Nat} (w : Word) (start stop : Nat) : BitVec n := BitVec.ofNat n (extract w start stop)

/-- What a rule of spec files 40 to 45 says of a word: the rule's operands are `operands`, and wherever the word's entry
is bound to the rule, the block's result is the entry's mnemonic and flags with these operands, `nops_o` is their number
and the operand ports carry `slots`, the ports after them all-zero. -/
def RuleGives (p : Params) (w : Word) (rule : DecodeRule) (operands : List Operand) (slots : List Slot) : Prop :=
  ruleOperands p rule w = operands ∧
  ∀ e, tableEntry p (extractFields w).opc = some e → e.rule = rule →
    decodeInstruction p w =
      { mnemonic := e.mnemonic, opcode := (extractFields w).opc, hit := true, flags := e.flags, operands := operands } ∧
    portsOf w (decodeInstruction p w) =
      { opcodeO := (extractFields w).opc
        hitO := true
        flagsO := packFlags e.flags
        nopsO := BitVec.ofNat 2 slots.length
        op0O := ((slots[0]?).getD emptySlot).bits
        op1O := ((slots[1]?).getD emptySlot).bits
        op2O := ((slots[2]?).getD emptySlot).bits }

/-- An operand with no operator but ADD and no immediate of kind FIXED (spec/10_state.md R28). -/
def addOnly : Operand → Bool
  | .reg _ => true
  | .imm _ _ kind => kind != .fixed
  | .expr l op r => op == .add && addOnly l && addOnly r
  | .ref inner _ _ => addOnly inner

/-- The step goes on. -/
def Completes (o : Host.Outcome State Fault Refusal) : Prop := ∃ t, o = .next t

end Sys2Proof.Machine
end

