-- ==== Sys2Proof/WellFormed.lean ====
section
/-! DEFINITION. Which `Instr` terms stand for words under a table: the opcode a row-of-`TABLE` constructor carries must
be that of such a row. -/

namespace Sys2Proof

/-- `TABLE[k]` is an unnamed row bound to `rule` (R36, R76). -/
def rowBoundTo (p : Params) (k : Opcode) (rule : DecodeRule) : Bool :=
  match tableSlot p k with
  | .unnamed r => r.rule == rule
  | .pinned _ | .unnumbered _ | .empty => false

/-- Whether spec/opcode_table.json has a `<DR_…>` row for unnamed entries with this rule. -/
def DecodeRule.hasTableRow : DecodeRule → Bool
  | .DR_R | .DR_RR | .DR_RRR | .DR_RI21 | .DR_RI16 | .DR_RI8 | .DR_RI21S11 | .DR_LDG | .DR_LDBD_G | .DR_LDBD_C
  | .DR_LDBD_U | .DR_LDBD_S => true
  | .DR_NONE | .DR_BRC | .DR_JMP | .DR_CALL | .DR_RETN | .DR_LDLOC | .DR_MKSTR | .DR_PUSH | .DR_PUSHLOC | .DR_POP
  | .DR_STORE | .DR_DECREF | .DR_MOV | .DR_OPEN => false

/-- `TABLE[k]` is an unnamed row without a `<DR_…>` row in spec/opcode_table.json. -/
def otherRow (p : Params) (k : Opcode) : Bool :=
  match tableSlot p k with
  | .unnamed r => !r.rule.hasTableRow
  | .pinned _ | .unnumbered _ | .empty => false

/-- Well-formedness under a table. Field widths are in the types, so only the carried opcode is checked. -/
def Instr.wfWith (p : Params) : Instr → Bool
  | .add _ _ _ | .jmp _ | .call _ _ _ | .mov _ _ _ | .stMem32 _ _ _ | .unk36 _ => true
  | .jz _ _ | .jnz _ _ | .retn _ | .ldLocal32b _ _ | .mkstr _ _ | .push _ _ | .pushLocal32 _ _ | .pop _ _
  | .stMem8 _ _ _ | .stGc _ _ _ | .decref _ _ | .mkgc _ => true
  | .drR k _ => rowBoundTo p k .DR_R
  | .drRR k _ _ => rowBoundTo p k .DR_RR
  | .drRRR k _ _ _ => rowBoundTo p k .DR_RRR
  | .drRI21 k _ _ => rowBoundTo p k .DR_RI21
  | .drRI16 k _ _ => rowBoundTo p k .DR_RI16
  | .drRI8 k _ _ => rowBoundTo p k .DR_RI8
  | .drRI21S11 k _ _ => rowBoundTo p k .DR_RI21S11
  | .drLDG k _ _ => rowBoundTo p k .DR_LDG
  | .drLDBDG k _ _ _ => rowBoundTo p k .DR_LDBD_G
  | .drLDBDC k _ _ _ => rowBoundTo p k .DR_LDBD_C
  | .drLDBDU k _ _ _ => rowBoundTo p k .DR_LDBD_U
  | .drLDBDS k _ _ _ => rowBoundTo p k .DR_LDBD_S
  | .row k _ => otherRow p k
  | .ud k => tableSlot p k == .empty

/-- Well-formedness under the block's own table. -/
def Instr.wf (i : Instr) : Bool := i.wfWith Config.params

end Sys2Proof
end

