-- ==== Sys2Proof/Certificates/Slice0/Obligations.lean ====
section
/-! DEFINITION. The statements for the provers. -/

open Sys2Proof Sys2Proof.Machine

/-! ### Decoding and encoding -/

/-- R70 and R71: the eleven fields are the stated bit ranges by R8's extraction, and the five mode predicates are the
stated comparisons, for every word. -/
def Obligations.ExtractorFieldsAndPredicates : Prop :=
  ∀ w : Word,
    extractFields w =
      { opc := slice w 26 32, ra := slice w 21 26, rb := slice w 16 21, rc := slice w 11 16, imm21 := slice w 0 21,
        imm16 := slice w 0 16, imm8 := slice w 0 8, fidx20 := slice w 1 21, flag0 := slice w 0 1, pop22 := slice w 4 26,
        pop4 := slice w 0 4 } ∧
    ((extractFields w).modes.raZero = true ↔ extract w 21 26 = 0) ∧
    ((extractFields w).modes.raBp = true ↔ extract w 21 26 = 30) ∧
    ((extractFields w).modes.rbSp = true ↔ extract w 16 21 = 31) ∧
    ((extractFields w).modes.i16Zero = true ↔ extract w 0 16 = 0) ∧
    ((extractFields w).modes.i16One = true ↔ extract w 0 16 = 1)

/-- R8: `extract` is the right-aligned, zero-extended bits `[start, stop)`; a zero-width range yields 0 and `[0, 32)`
the word. A zero-width range beyond bit 32 is outside R8's precondition and rests on log entry 19 (DEDUCED). -/
def Obligations.ExtractYieldsTheBits : Prop :=
  (∀ (w : Word) (start stop : Nat), start ≤ stop → stop ≤ 32 →
    extract w start stop = w.toNat / 2 ^ start % 2 ^ (stop - start) ∧
    ∀ j, (extract w start stop).testBit j = (decide (j < stop - start) && w.getLsbD (start + j))) ∧
  (∀ (w : Word) (n : Nat), extract w n n = 0) ∧
  (∀ w : Word, extract w 0 32 = w.toNat)

/-- R240 and R241: the source's two error kinds. A natural number of 32 bits decodes as the word it is and a greater one
is refused, not reduced; a range outside `0 ≤ start ≤ stop ≤ 32` is refused and no other. Decisions of the spec's own (log
entry 14): the refusals D17 and D18. -/
def Obligations.BadNumbersAndRangesAreRefused : Prop :=
  (∀ (p : Params) (w : Word), decodeNat p w.toNat = .ok (decodeInstruction p w)) ∧
  (∀ (p : Params) (n : Nat), 2 ^ 32 ≤ n → decodeNat p n = .error .invalidWord) ∧
  (∀ (w : Word) (start stop : Nat),
    (start ≤ stop ∧ stop ≤ 32 → extractChecked w start stop = .ok (extract w start stop)) ∧
    (stop < start ∨ 32 < stop → extractChecked w start stop = .error .invalidBitRange))

/-- Words written out from the spec's encodings decode to the instructions they stand for (vectors A4, B5, B9, B12, M2,
M22 of spec/95_test_vectors.md and R190). -/
def Obligations.WrittenWordsDecode : Prop :=
  decode 0b00000000001000100001100000000000 = .add 1 2 3 ∧
  decode 0b00011100000000000000000000000001 = .jmp 1 ∧
  decode 0b00111100000000000000000000001011 = .call 0 5 1 ∧
  decode 0b00111100011111111111111111111110 = .call 3 0xFFFFF 0 ∧
  decode 0b01011000001000100000000000010000 = .mov 1 2 0x10 ∧
  decode 0b11000011110111110000000000010000 = .stMem32 30 31 0x10 ∧
  decode 0b11011000000000000000000000000101 = .unk36 5

/-- Decoding the word of a well-formed instruction gives it back, under every admissible table. The encoder is the
model's own (log entry 16, DESIGN CHOICE), and so is the constructor `row` for the entries of `TABLE` without a row of
spec/opcode_table.json (log entry 6, DESIGN CHOICE). -/
def Obligations.DecodeOfEncodeReturnsInstruction : Prop :=
  ∀ (p : Params) (i : Instr), i.wfWith p = true → decodeWith p (encodeWith p i) = i

/-- Every word decodes to a well-formed instruction, under every admissible table (R10). -/
def Obligations.EveryWordDecodesWellFormed : Prop :=
  ∀ (p : Params) (w : Word), (decodeWith p w).wfWith p = true

/-- R11: two words of one opcode that agree on the bits their entry's decode rule reads have one result; for an opcode
without an entry no bit below the opcode matters (R77). -/
def Obligations.UnreadBitsHaveNoEffect : Prop :=
  ∀ (p : Params) (w w' : Word), extract w 26 32 = extract w' 26 32 →
    (∀ e, tableEntry p (extractFields w).opc = some e →
      low26Of w &&& readMask e.rule w = low26Of w' &&& readMask e.rule w) →
    decodeInstruction p w = decodeInstruction p w'

/-- R51: four stream bytes form the word in little-endian order, and a stream holds one word every four bytes. That fewer
than four bytes give no word rests on R52, the spec's decision D17 and log entry 11 (DESIGN CHOICE). -/
def Obligations.StreamWordsAreLittleEndian : Prop :=
  (∀ (b0 b1 b2 b3 : Byte) (rest : List Byte), ∃ w,
    takeWord (b0 :: b1 :: b2 :: b3 :: rest) = some (w, rest) ∧
    w.toNat = b0.toNat + 2 ^ 8 * b1.toNat + 2 ^ 16 * b2.toNat + 2 ^ 24 * b3.toNat) ∧
  (∀ (w : Word) (rest : List Byte), takeWord (bytesOfWord w ++ rest) = some (w, rest)) ∧
  (∀ bs : List Byte, takeWord bs = none ↔ bs.length < 4)

/-! ### The opcode table -/

/-- R34: the slots up to `LAST_OPC` hold entries, the slots above it none, and `LAST_OPC` is at least 0x36. The bound on
`LAST_OPC` is an inference the spec marks as its own. -/
def Obligations.TableIsContiguous : Prop :=
  ∀ (p : Params), 0x36 ≤ p.lastOpc.toNat ∧ ∀ k : Opcode, (tableEntry p k).isSome = true ↔ k.toNat ≤ p.lastOpc.toNat

/-- R33 and R35: the six entries with a stated opcode number and the twelve named ones, wherever the table places them.
The control-flow bits are the spec's decision D7, the spelling of `push`, `pop` and `retn` its decision D6. -/
def Obligations.TableEntriesStand : Prop :=
  ∀ p : Params,
    tableEntry p 0x00 = some ⟨text "add", .DR_RRR, (p.useChg 0x00).withControl false false false⟩ ∧
    tableEntry p 0x07 = some ⟨text "jmp", .DR_JMP, (p.useChg 0x07).withControl true false true⟩ ∧
    tableEntry p 0x0F = some ⟨text "call", .DR_CALL, (p.useChg 0x0F).withControl false true false⟩ ∧
    tableEntry p 0x16 = some ⟨text "mov", .DR_MOV, (p.useChg 0x16).withControl false false false⟩ ∧
    tableEntry p 0x30 = some ⟨text "st_mem32", .DR_STORE, (p.useChg 0x30).withControl false false false⟩ ∧
    tableEntry p 0x36 = some ⟨text "unk_36", .DR_OPEN, ⟨false, false, false, false, false, false, false, false, false⟩⟩ ∧
    tableEntry p (p.opcOf .jz) = some ⟨text "jz", .DR_BRC, (p.useChg (p.opcOf .jz)).withControl true false false⟩ ∧
    tableEntry p (p.opcOf .jnz) = some ⟨text "jnz", .DR_BRC, (p.useChg (p.opcOf .jnz)).withControl true false false⟩ ∧
    tableEntry p (p.opcOf .retn) = some ⟨text "retn", .DR_RETN, (p.useChg (p.opcOf .retn)).withControl false false true⟩ ∧
    tableEntry p (p.opcOf .push) = some ⟨text "push", .DR_PUSH, (p.useChg (p.opcOf .push)).withControl false false false⟩ ∧
    tableEntry p (p.opcOf .pop) = some ⟨text "pop", .DR_POP, (p.useChg (p.opcOf .pop)).withControl false false false⟩ ∧
    tableEntry p (p.opcOf .pushLocal32) =
      some ⟨text "push_local32", .DR_PUSHLOC, (p.useChg (p.opcOf .pushLocal32)).withControl false false false⟩ ∧
    tableEntry p (p.opcOf .ldLocal32b) =
      some ⟨text "ld_local32b", .DR_LDLOC, (p.useChg (p.opcOf .ldLocal32b)).withControl false false false⟩ ∧
    tableEntry p (p.opcOf .mkstr) =
      some ⟨text "mkstr", .DR_MKSTR, (p.useChg (p.opcOf .mkstr)).withControl false false false⟩ ∧
    tableEntry p (p.opcOf .stMem8) =
      some ⟨text "st_mem8", .DR_STORE, (p.useChg (p.opcOf .stMem8)).withControl false false false⟩ ∧
    tableEntry p (p.opcOf .stGc) =
      some ⟨text "st_gc", .DR_STORE, (p.useChg (p.opcOf .stGc)).withControl false false false⟩ ∧
    tableEntry p (p.opcOf .decref) =
      some ⟨text "decref", .DR_DECREF, (p.useChg (p.opcOf .decref)).withControl false false false⟩ ∧
    tableEntry p (p.opcOf .mkgc) =
      some ⟨text "mkgc", .DR_OPEN, (p.useChg (p.opcOf .mkgc)).withControl false false false⟩

/-! ### The decode rules -/

/-- R110 to R115: register forms and register + immediate forms, with their packed slots. The port list and the slot layout
are the spec's decisions D2 and D5, the kind CONST its decision D10 (log entry 14). -/
def Obligations.RegisterFormRules : Prop :=
  ∀ (p : Params) (w : Word),
    RuleGives p w .DR_R [.reg (slice w 21 26)] [regSlot (slice w 21 26)] ∧
    RuleGives p w .DR_RR [.reg (slice w 21 26), .reg (slice w 16 21)] [regSlot (slice w 21 26), regSlot (slice w 16 21)] ∧
    RuleGives p w .DR_RRR [.reg (slice w 21 26), .reg (slice w 16 21), .reg (slice w 11 16)]
      [regSlot (slice w 21 26), regSlot (slice w 16 21), regSlot (slice w 11 16)] ∧
    RuleGives p w .DR_RI21 [.reg (slice w 21 26), .imm (slice w 0 21) 21 .const]
      [regSlot (slice w 21 26), immSlot (slice w 0 21) 21 0] ∧
    RuleGives p w .DR_RI16 [.reg (slice w 21 26), .imm (slice w 0 16) 16 .const]
      [regSlot (slice w 21 26), immSlot (slice w 0 16) 16 0] ∧
    RuleGives p w .DR_RI8 [.reg (slice w 21 26), .imm (slice w 0 8) 8 .const]
      [regSlot (slice w 21 26), immSlot (slice w 0 8) 8 0]

/-- R130, R136, R138: the shapes of the conditional branch, the call and the return, with their packed slots. The port list
and the slot layout are the spec's decisions D2 and D5, the declared width 1 of the call flag and the kind CONST where the
source gives none its decision D10 (R75; log entry 14). -/
def Obligations.ControlTransferRules : Prop :=
  ∀ (p : Params) (w : Word),
    RuleGives p w .DR_BRC
      [.reg (slice w 21 26), .ref (.imm (BitVec.ofNat 32 (extract w 0 21 * 4)) 23 .const) .code true]
      [regSlot (slice w 21 26), refSlot 0 true (immSlot (BitVec.ofNat 32 (extract w 0 21 * 4)) 23 0)] ∧
    (extract w 21 26 = 0 →
      RuleGives p w .DR_CALL [.imm (slice w 1 21) 20 .const, .imm (slice w 0 1) 1 .constBool]
        [immSlot (slice w 1 21) 20 0, immSlot (slice w 0 1) 1 1]) ∧
    (extract w 21 26 ≠ 0 →
      RuleGives p w .DR_CALL [.reg (slice w 21 26), .imm (slice w 0 1) 1 .constBool]
        [regSlot (slice w 21 26), immSlot (slice w 0 1) 1 1]) ∧
    RuleGives p w .DR_RETN [.imm (slice w 0 16) 16 .const] [immSlot (slice w 0 16) 16 0]

/-- R150, R152 to R155: the load shapes but R151, with their packed slots. The base register field of the base +
displacement loads is the spec's decision D19, the false IP-relative flag of all but `DR_LDG` its decision D9 (R55), the
port list and the slot layout D2 and D5, the kind CONST D10 (log entry 14). -/
def Obligations.LoadRules : Prop :=
  ∀ (p : Params) (w : Word),
    RuleGives p w .DR_LDG [.reg (slice w 21 26), .ref (.imm (slice w 0 21) 21 .const) .global false]
      [regSlot (slice w 21 26), refSlot 1 false (immSlot (slice w 0 21) 21 0)] ∧
    RuleGives p w .DR_LDBD_C
      [.reg (slice w 21 26), .ref (.expr (.reg (slice w 16 21)) .add (.imm (slice w 0 16) 16 .const)) .code false]
      [regSlot (slice w 21 26), refSlot 0 false (sumSlot (slice w 16 21) (slice w 0 16) 16)] ∧
    RuleGives p w .DR_LDBD_U
      [.reg (slice w 21 26), .ref (.expr (.reg (slice w 16 21)) .add (.imm (slice w 0 16) 16 .const)) .unified false]
      [regSlot (slice w 21 26), refSlot 2 false (sumSlot (slice w 16 21) (slice w 0 16) 16)] ∧
    RuleGives p w .DR_LDBD_S
      [.reg (slice w 21 26), .ref (.expr (.reg (slice w 16 21)) .add (.imm (slice w 0 16) 16 .const)) .stack false]
      [regSlot (slice w 21 26), refSlot 3 false (sumSlot (slice w 16 21) (slice w 0 16) 16)] ∧
    RuleGives p w .DR_LDLOC
      [.reg (slice w 21 26), .ref (.expr (.reg 30) .add (.imm (slice w 0 16) 16 .const)) .stack false]
      [regSlot (slice w 21 26), refSlot 3 false (sumSlot 30 (slice w 0 16) 16)]

/-- R170, R174: the shapes of push and pop, with their packed slots. The port list and the slot layout are the spec's
decisions D2 and D5, the kind CONST its decision D10 (log entry 14). -/
def Obligations.StackRules : Prop :=
  ∀ (p : Params) (w : Word),
    (extract w 21 26 = 30 →
      RuleGives p w .DR_PUSH [.imm (slice w 0 21) 21 .const] [immSlot (slice w 0 21) 21 0]) ∧
    (extract w 21 26 ≠ 30 → RuleGives p w .DR_PUSH [.reg (slice w 21 26)] [regSlot (slice w 21 26)]) ∧
    RuleGives p w .DR_POP [.imm (slice w 4 26) 22 .const, .imm (slice w 0 4) 4 .const]
      [immSlot (slice w 4 26) 22 0, immSlot (slice w 0 4) 4 0]

/-- R180: the generic store, all combinations of the four destinations and the two values, with their packed slots. The order
of the operands is the spec's decision D8, the false IP-relative flag D9, the kind CONST D10, the port list and the slot
layout D2 and D5 (log entry 14). -/
def Obligations.StoreRule : Prop :=
  ∀ (p : Params) (w : Word) (dest value : Operand) (destSlot valueSlot : Slot),
    ((extract w 21 26 = 30 ∧ dest = .ref (.expr (.reg 30) .add (.imm (slice w 0 16) 16 .const)) .stack false ∧
        destSlot = refSlot 3 false (sumSlot 30 (slice w 0 16) 16)) ∨
      (extract w 21 26 ≠ 30 ∧ extract w 0 16 = 0 ∧ dest = .ref (.reg (slice w 21 26)) .global false ∧
        destSlot = refSlot 1 false (regSlot (slice w 21 26))) ∨
      (extract w 21 26 ≠ 30 ∧ extract w 0 16 = 1 ∧ dest = .ref (.reg (slice w 21 26)) .stack false ∧
        destSlot = refSlot 3 false (regSlot (slice w 21 26))) ∨
      (extract w 21 26 ≠ 30 ∧ 2 ≤ extract w 0 16 ∧ dest = .ref (.reg (slice w 21 26)) .unified false ∧
        destSlot = refSlot 2 false (regSlot (slice w 21 26)))) →
    ((extract w 16 21 = 31 ∧ value = .imm 0 32 .const ∧ valueSlot = immSlot 0 32 0) ∨
      (extract w 16 21 ≠ 31 ∧ value = .reg (slice w 16 21) ∧ valueSlot = regSlot (slice w 16 21))) →
    RuleGives p w .DR_STORE [dest, value] [destSlot, valueSlot]

/-- R188: the shape of `mov` in both modes, with its packed slots. The port list and the slot layout are the spec's decisions
D2 and D5, the kind CONST its decision D10 (log entry 14). -/
def Obligations.MovRule : Prop :=
  ∀ (p : Params) (w : Word),
    (extract w 0 16 = 0 →
      RuleGives p w .DR_MOV [.reg (slice w 21 26), .reg (slice w 16 21)] [regSlot (slice w 21 26), regSlot (slice w 16 21)]) ∧
    (extract w 0 16 ≠ 0 →
      RuleGives p w .DR_MOV
        [.reg (slice w 21 26), .expr (.reg (slice w 16 21)) .add (.imm (slice w 0 16) 16 .const)]
        [regSlot (slice w 21 26), sumSlot (slice w 16 21) (slice w 0 16) 16])

/-- R116, R133, R151, R157, R172, R185: the shapes of which some part is the spec's own decision (D9, D10, D11) or inference:
the shifted immediate, the jump, the GLOBAL load (base field D19), `mkstr`, `push_local32` and `decref`, with their packed
slots (D2, D5; log entry 14). -/
def Obligations.DecidedShapeRules : Prop :=
  ∀ (p : Params) (w : Word),
    RuleGives p w .DR_RI21S11 [.reg (slice w 21 26), .imm (BitVec.ofNat 32 (extract w 0 21 * 2 ^ 11)) 32 .const]
      [regSlot (slice w 21 26), immSlot (slice (n := 21) w 0 21 ++ 0#11) 32 0] ∧
    RuleGives p w .DR_JMP [.ref (.imm (BitVec.ofNat 32 (extract w 0 21 * 4)) 21 .const) .code true]
      [refSlot 0 true (immSlot (BitVec.ofNat 32 (extract w 0 21 * 4)) 21 0)] ∧
    RuleGives p w .DR_LDBD_G
      [.reg (slice w 21 26), .ref (.expr (.reg (slice w 16 21)) .add (.imm (slice w 0 16) 16 .const)) .global false]
      [regSlot (slice w 21 26), refSlot 1 false (sumSlot (slice w 16 21) (slice w 0 16) 16)] ∧
    RuleGives p w .DR_MKSTR [.reg (slice w 21 26), .ref (.imm (slice w 0 21) 21 .const) .global false]
      [regSlot (slice w 21 26), refSlot 1 false (immSlot (slice w 0 21) 21 0)] ∧
    RuleGives p w .DR_PUSHLOC
      [.imm (slice w 21 26) 5 .constBool, .ref (.expr (.reg 30) .add (.imm (slice w 0 16) 16 .const)) .stack false]
      [immSlot (slice w 21 26) 5 1, refSlot 3 false (sumSlot 30 (slice w 0 16) 16)] ∧
    (extract w 21 26 = 30 →
      RuleGives p w .DR_DECREF [.ref (.expr (.reg 30) .add (.imm (slice w 0 21) 21 .const)) .stack false]
        [refSlot 3 false (sumSlot 30 (slice w 0 21) 21)]) ∧
    (extract w 21 26 ≠ 30 →
      RuleGives p w .DR_DECREF
        [.ref (.expr (.reg 30) .add (.expr (.reg (slice w 21 26)) .add (.imm (slice w 0 21) 21 .const))) .stack false]
        [refSlot 3 false { sumSlot (slice w 21 26) (slice w 0 21) 21 with bp := true }])

/-- R200 (with R77 and R242): a word whose opcode has no entry gives `ud_<XX>`, no operands and flags 0, with all operand
ports zero, whatever its low 26 bits. Its line is the mnemonic and twelve spaces. Decisions of the spec's own (log entry
14): the port list D2, `hit` beside flags 0 D4, the slot layout D5 and the written space D15. -/
def Obligations.UnknownOpcodeFallsBack : Prop :=
  ∀ (p : Params) (w : Word), tableEntry p (extractFields w).opc = none →
    ∃ c1 c2 : Char,
      (text "0123456789ABCDEF")[extract w 26 32 / 16]? = some c1 ∧ (text "0123456789ABCDEF")[extract w 26 32 % 16]? = some c2 ∧
      decodeInstruction p w =
        { mnemonic := ['u', 'd', '_', c1, c2], opcode := slice w 26 32, hit := false,
          flags := ⟨false, false, false, false, false, false, false, false, false⟩, operands := [] } ∧
      portsOf w (decodeInstruction p w) =
        { opcodeO := slice w 26 32, hitO := false, flagsO := 0, nopsO := 0, op0O := 0, op1O := 0, op2O := 0 } ∧
      render (decodeInstruction p w) = ['u', 'd', '_', c1, c2] ++ List.replicate 12 ' '

/-- R74 (and R204, property 1): the operand count is a constant of the entry's decode rule; an open rule has the count
of its opcode (decision D23, log entry 7). At most three operands. -/
def Obligations.OperandCountIsFixedByTheRule : Prop :=
  ∀ (p : Params) (w : Word) (e : Entry), tableEntry p (extractFields w).opc = some e →
    (decodeInstruction p w).operands.length = ruleCount p e.rule (extractFields w).opc ∧
    (decodeInstruction p w).operands.length ≤ 3

/-- R204: the seven properties the source states as testable, under every admissible table. The operand count is that of
the entry's decode rule (R74), for an open rule the constant that decision D23 asks of the table (log entry 7). Decisions
of the spec's own (log entry 14): `hit` as a member of its own D4 and the constant operand count of an open rule D23. -/
def Obligations.TestableProperties : Prop :=
  ∀ p : Params,
    (∀ (w : Word) (e : Entry), tableEntry p (extractFields w).opc = some e →
      (decodeInstruction p w).mnemonic = e.mnemonic ∧
      ∀ w' : Word, extract w' 26 32 = extract w 26 32 →
        (decodeInstruction p w').mnemonic = e.mnemonic ∧
        (decodeInstruction p w').operands.length = ruleCount p e.rule (extractFields w).opc) ∧
    (∀ w : Word, tableEntry p (extractFields w).opc = none →
      (decodeInstruction p w).mnemonic = text "ud_" ++ hex2 (extractFields w).opc ∧ (decodeInstruction p w).operands = []) ∧
    (∀ w : Word, extract w 0 32 = w.toNat ∧ ∀ n, n ≤ 32 → extract w n n = 0) ∧
    (∀ w w' : Word, w = w' → render (decodeInstruction p w) = render (decodeInstruction p w')) ∧
    (∀ w w' : Word, extract w 26 32 = extract w' 26 32 → (decodeInstruction p w).flags = (decodeInstruction p w').flags) ∧
    (∀ w : Word, (decodeInstruction p w).opcode.toNat = extract w 26 32) ∧
    (∀ w : Word,
      (extract w 26 32 = 0x00 → (decodeInstruction p w).mnemonic = text "add" ∧ (decodeInstruction p w).hit = true) ∧
      (extract w 26 32 = 0x07 → (decodeInstruction p w).mnemonic = text "jmp" ∧ (decodeInstruction p w).hit = true) ∧
      (extract w 26 32 = 0x0F → (decodeInstruction p w).mnemonic = text "call" ∧ (decodeInstruction p w).hit = true) ∧
      (extract w 26 32 = 0x16 → (decodeInstruction p w).mnemonic = text "mov" ∧ (decodeInstruction p w).hit = true) ∧
      (extract w 26 32 = 0x30 → (decodeInstruction p w).mnemonic = text "st_mem32" ∧ (decodeInstruction p w).hit = true) ∧
      (extract w 26 32 = 0x36 → (decodeInstruction p w).mnemonic = text "unk_36" ∧ (decodeInstruction p w).hit = true))

/-- R81: `flags_o` is the entry's flags column on a hit and 0 on a miss, for every value of the low 26 bits. Decisions of
the spec's own (log entry 14): the port list D2, the flag positions D3 and `hit` beside flags 0 D4. -/
def Obligations.FlagsPortIsTheTableColumn : Prop :=
  ∀ (p : Params) (w : Word),
    (∀ e, tableEntry p (extractFields w).opc = some e →
      (portsOf w (decodeInstruction p w)).hitO = true ∧ (portsOf w (decodeInstruction p w)).flagsO = packFlags e.flags) ∧
    (tableEntry p (extractFields w).opc = none →
      (portsOf w (decodeInstruction p w)).hitO = false ∧ (portsOf w (decodeInstruction p w)).flagsO = 0)

/-- R264: `opcode_o`, `hit_o` and `flags_o` depend on `word_i[31:26]` and the table only, and so does `nops_o` for every
catalogued rule. Decisions of the spec's own (log entry 14): the port list D2 and the flag positions D3. -/
def Obligations.OutputsDependOnTheOpcodeAlone : Prop :=
  ∀ (p : Params) (w w' : Word), extract w 26 32 = extract w' 26 32 →
    (portsOf w (decodeInstruction p w)).opcodeO = (portsOf w' (decodeInstruction p w')).opcodeO ∧
    (portsOf w (decodeInstruction p w)).hitO = (portsOf w' (decodeInstruction p w')).hitO ∧
    (portsOf w (decodeInstruction p w)).flagsO = (portsOf w' (decodeInstruction p w')).flagsO ∧
    ((∀ e, tableEntry p (extractFields w).opc = some e → e.rule ≠ .DR_OPEN) →
      (portsOf w (decodeInstruction p w)).nopsO = (portsOf w' (decodeInstruction p w')).nopsO)

/-- R55: an operand of a catalogued rule is an IP-relative reference exactly for the two branch rules, and then into the
CODE space. Decisions of the spec's own (log entry 14): the false IP-relative flag where the source does not state one D9.
-/
def Obligations.OnlyBranchRulesAreIpRelative : Prop :=
  ∀ (p : Params) (rule : DecodeRule) (w : Word), rule ≠ .DR_OPEN →
    ((∃ inner space, Operand.ref inner space true ∈ ruleOperands p rule w) ↔ (rule = .DR_BRC ∨ rule = .DR_JMP)) ∧
    ∀ inner space, Operand.ref inner space true ∈ ruleOperands p rule w → space = .code

/-- R28: no catalogued decode rule produces SUB, SHL, SHR or the kind FIXED. Decisions of the spec's own (log entry 14):
the kind CONST where the source gives none D10. -/
def Obligations.CataloguedRulesUseAddOnly : Prop :=
  ∀ (p : Params) (rule : DecodeRule) (w : Word) (o : Operand), rule ≠ .DR_OPEN → o ∈ ruleOperands p rule w → addOnly o = true

/-! ### Ports and the multiplexer network -/

/-- R32: the positions of the nine flags on `flags_o`, and the mask read back as the record. Decisions of the spec's own
(log entry 14): the positions D3. -/
def Obligations.FlagPositions : Prop :=
  ∀ f : Flags,
    (packFlags f).getLsbD 0 = f.use1 ∧ (packFlags f).getLsbD 1 = f.use2 ∧ (packFlags f).getLsbD 2 = f.use3 ∧
    (packFlags f).getLsbD 3 = f.chg1 ∧ (packFlags f).getLsbD 4 = f.chg2 ∧ (packFlags f).getLsbD 5 = f.chg3 ∧
    (packFlags f).getLsbD 6 = f.jump ∧ (packFlags f).getLsbD 7 = f.call ∧ (packFlags f).getLsbD 8 = f.noFall ∧
    unpackFlags (packFlags f) = f

/-- R37: the twelve fields of a slot stand at their stated bits, and writing fields and reading them back changes nothing,
either way. The layout is the spec's decision D5. -/
def Obligations.SlotFieldsRoundTrip : Prop :=
  (∀ s : Slot,
    s.bits.extractLsb' 0 32 = s.imm ∧ s.bits.extractLsb' 32 6 = s.iw ∧ s.bits.extractLsb' 38 2 = s.ik ∧
    s.bits.getLsbD 40 = s.iv ∧ s.bits.extractLsb' 41 5 = s.r ∧ s.bits.getLsbD 46 = s.rv ∧
    s.bits.extractLsb' 47 2 = s.xop ∧ s.bits.getLsbD 49 = s.bp ∧ s.bits.getLsbD 50 = s.iprel ∧
    s.bits.extractLsb' 51 2 = s.space ∧ s.bits.getLsbD 53 = s.ref ∧ s.bits.getLsbD 54 = s.v) ∧
  (∀ s : Slot, slotOfBits s.bits = s) ∧ (∀ b : BitVec 55, (slotOfBits b).bits = b)

/-- R38: the packed form of an operand denotes that operand. Decisions of the spec's own (log entry 14): the slot layout
and the packed form D5. -/
def Obligations.PackedOperandsUnpack : Prop :=
  ∀ (o : Operand) (s : Slot), packOperand o = some s → unpackSlot (slotOfBits s.bits) = some o

/-- R38: every operand a catalogued rule produces has a packed form, with `bp` = 1 only for `DR_DECREF` with a register
field other than 30. Decisions of the spec's own (log entry 14): the slot layout and the packed form D5, and the Reference
of `decref` D9. -/
def Obligations.CataloguedOperandsArePackable : Prop :=
  ∀ (p : Params) (rule : DecodeRule) (w : Word) (o : Operand), rule ≠ .DR_OPEN → o ∈ ruleOperands p rule w →
    ∃ s, packOperand o = some s ∧ (s.bp = true ↔ rule = .DR_DECREF ∧ extract w 21 26 ≠ 30)

/-- R78 to R80: the extractor, table lookup and multiplexers give, for every word, the ports of the decode rules; only an
entry with an open rule has no row in the select table. Decisions of the spec's own (log entry 14): the multiplexer
structure D1, the port list D2, the flag positions D3, the slot layout D5 and the choices in the decode rules D8 to D11
and D19. -/
def Obligations.SelectorComputesTheDecodeRules : Prop :=
  ∀ (p : Params) (w : Word),
    (∀ ports, selectorPorts p w = some ports → ports = portsOf w (decodeInstruction p w)) ∧
    (selectorPorts p w = none ↔ ∃ e, tableEntry p (extractFields w).opc = some e ∧ e.rule = .DR_OPEN)

/-- R79, R80: the multiplexers pick, for every word and catalogued rule, candidates that denote the rule's operands in
order (R38), with `nops` their number. Decisions of the spec's own (log entry 14): the multiplexer structure D1, the slot
layout D5 and the choices in the decode rules D8 to D11 and D19. -/
def Obligations.SelectionDeliversTheOperands : Prop :=
  ∀ (p : Params) (rule : DecodeRule) (w : Word) (sel : Selection), select rule (extractFields w).modes = some sel →
    sel.nops.toNat = (ruleOperands p rule w).length ∧
    ([sel.slot0, sel.slot1, sel.slot2].map (candidateSlot (extractFields w))).filterMap unpackSlot = ruleOperands p rule w

/-! ### The instructions -/

/-- `add` and the register-only rows complete, driving the outputs of R110 to R112 and R117 and changing nothing else.
Decisions of the spec's own (log entry 14): the control-flow bits D7, the port list D2, the flag positions D3 and the slot
layout D5, and the form of the line D12 to D16. -/
def Obligations.RegisterFormsComplete : Prop :=
  ∀ (opc : Opcode) (ra rb rc : RegIdx) (s : State),
    (∃ t, exec (.add ra rb rc) s = .next t ∧
      OutputsBecome ⟨text "add", 0x00, true, (Config.params.useChg 0x00).withControl false false false,
        [.reg ra, .reg rb, .reg rc]⟩ s t) ∧
    (∃ t, exec (.drR opc ra) s = .next t ∧ OutputsBecome (rowResult opc [.reg ra]) s t) ∧
    (∃ t, exec (.drRR opc ra rb) s = .next t ∧ OutputsBecome (rowResult opc [.reg ra, .reg rb]) s t) ∧
    (∃ t, exec (.drRRR opc ra rb rc) s = .next t ∧ OutputsBecome (rowResult opc [.reg ra, .reg rb, .reg rc]) s t)

/-- The register + immediate rows complete, driving the outputs of R113 to R116 and changing nothing else. Decisions of
the spec's own (log entry 14): the kind CONST D10, the port list D2, the flag positions D3 and the slot layout D5, and the
form of the line D12 to D16. -/
def Obligations.RegisterImmediateFormsComplete : Prop :=
  ∀ (opc : Opcode) (ra : RegIdx) (imm21 : BitVec 21) (imm16 : BitVec 16) (imm8 : BitVec 8) (s : State),
    (∃ t, exec (.drRI21 opc ra imm21) s = .next t ∧
      OutputsBecome (rowResult opc [.reg ra, .imm (imm21.setWidth 32) 21 .const]) s t) ∧
    (∃ t, exec (.drRI16 opc ra imm16) s = .next t ∧
      OutputsBecome (rowResult opc [.reg ra, .imm (imm16.setWidth 32) 16 .const]) s t) ∧
    (∃ t, exec (.drRI8 opc ra imm8) s = .next t ∧
      OutputsBecome (rowResult opc [.reg ra, .imm (imm8.setWidth 32) 8 .const]) s t) ∧
    (∃ t, exec (.drRI21S11 opc ra imm21) s = .next t ∧
      OutputsBecome (rowResult opc [.reg ra, .imm (imm21 ++ 0#11) 32 .const]) s t)

/-- `jz`, `jnz` and `jmp` complete, driving the outputs of R131, R132 and R134 and changing nothing else. Decisions of the
spec's own (log entry 14): the control-flow bits D7, the kind CONST D10, the uncut 23-bit value under the declared width
21 of `jmp` D11 (conflict C3), the port list D2, the flag positions D3 and the slot layout D5, and the form of the line
D12 to D16. -/
def Obligations.BranchesComplete : Prop :=
  ∀ (ra : RegIdx) (imm21 : BitVec 21) (s : State),
    (∃ t, exec (.jz ra imm21) s = .next t ∧
      OutputsBecome ⟨text "jz", Config.params.opcOf .jz, true,
        (Config.params.useChg (Config.params.opcOf .jz)).withControl true false false,
        [.reg ra, .ref (.imm ((imm21 ++ 0#2).setWidth 32) 23 .const) .code true]⟩ s t) ∧
    (∃ t, exec (.jnz ra imm21) s = .next t ∧
      OutputsBecome ⟨text "jnz", Config.params.opcOf .jnz, true,
        (Config.params.useChg (Config.params.opcOf .jnz)).withControl true false false,
        [.reg ra, .ref (.imm ((imm21 ++ 0#2).setWidth 32) 23 .const) .code true]⟩ s t) ∧
    (∃ t, exec (.jmp imm21) s = .next t ∧
      OutputsBecome ⟨text "jmp", 0x07, true, (Config.params.useChg 0x07).withControl true false true,
        [.ref (.imm ((imm21 ++ 0#2).setWidth 32) 21 .const) .code true]⟩ s t)

/-- `call` in both modes and `retn` complete, driving the outputs of R137 and R139 and changing nothing else. Decisions of
the spec's own (log entry 14): the spelling `retn` D6, the control-flow bits D7, the declared width 1 of the call flag and
the kind CONST D10, the port list D2, the flag positions D3 and the slot layout D5, and the form of the line D12 to D16.
-/
def Obligations.CallAndReturnComplete : Prop :=
  ∀ (ra : RegIdx) (fidx20 : BitVec 20) (flag0 : BitVec 1) (imm16 : BitVec 16) (s : State),
    (∃ t, exec (.call 0 fidx20 flag0) s = .next t ∧
      OutputsBecome ⟨text "call", 0x0F, true, (Config.params.useChg 0x0F).withControl false true false,
        [.imm (fidx20.setWidth 32) 20 .const, .imm (flag0.setWidth 32) 1 .constBool]⟩ s t) ∧
    (ra ≠ 0 → ∃ t, exec (.call ra fidx20 flag0) s = .next t ∧
      OutputsBecome ⟨text "call", 0x0F, true, (Config.params.useChg 0x0F).withControl false true false,
        [.reg ra, .imm (flag0.setWidth 32) 1 .constBool]⟩ s t) ∧
    (∃ t, exec (.retn imm16) s = .next t ∧
      OutputsBecome ⟨text "retn", Config.params.opcOf .retn, true,
        (Config.params.useChg (Config.params.opcOf .retn)).withControl false false true,
        [.imm (imm16.setWidth 32) 16 .const]⟩ s t)

/-- `ld_local32b`, `mkstr` and the load rows complete, driving the outputs of R150 to R158 and changing nothing else.
Decisions of the spec's own (log entry 14): the control-flow bits D7, the false IP-relative flag of all but the short
global load D9, the kind CONST D10, the base field of the base + displacement loads D19, the port list D2, the flag
positions D3 and the slot layout D5, and the form of the line D12 to D16. -/
def Obligations.LoadsComplete : Prop :=
  ∀ (opc : Opcode) (ra rb : RegIdx) (imm21 : BitVec 21) (imm16 : BitVec 16) (s : State),
    (∃ t, exec (.ldLocal32b ra imm16) s = .next t ∧
      OutputsBecome ⟨text "ld_local32b", Config.params.opcOf .ldLocal32b, true,
        (Config.params.useChg (Config.params.opcOf .ldLocal32b)).withControl false false false,
        [.reg ra, .ref (.expr (.reg 30) .add (.imm (imm16.setWidth 32) 16 .const)) .stack false]⟩ s t) ∧
    (∃ t, exec (.mkstr ra imm21) s = .next t ∧
      OutputsBecome ⟨text "mkstr", Config.params.opcOf .mkstr, true,
        (Config.params.useChg (Config.params.opcOf .mkstr)).withControl false false false,
        [.reg ra, .ref (.imm (imm21.setWidth 32) 21 .const) .global false]⟩ s t) ∧
    (∃ t, exec (.drLDG opc ra imm21) s = .next t ∧
      OutputsBecome (rowResult opc [.reg ra, .ref (.imm (imm21.setWidth 32) 21 .const) .global false]) s t) ∧
    (∃ t, exec (.drLDBDG opc ra rb imm16) s = .next t ∧
      OutputsBecome (rowResult opc
        [.reg ra, .ref (.expr (.reg rb) .add (.imm (imm16.setWidth 32) 16 .const)) .global false]) s t) ∧
    (∃ t, exec (.drLDBDC opc ra rb imm16) s = .next t ∧
      OutputsBecome (rowResult opc
        [.reg ra, .ref (.expr (.reg rb) .add (.imm (imm16.setWidth 32) 16 .const)) .code false]) s t) ∧
    (∃ t, exec (.drLDBDU opc ra rb imm16) s = .next t ∧
      OutputsBecome (rowResult opc
        [.reg ra, .ref (.expr (.reg rb) .add (.imm (imm16.setWidth 32) 16 .const)) .unified false]) s t) ∧
    (∃ t, exec (.drLDBDS opc ra rb imm16) s = .next t ∧
      OutputsBecome (rowResult opc
        [.reg ra, .ref (.expr (.reg rb) .add (.imm (imm16.setWidth 32) 16 .const)) .stack false]) s t)

/-- `push` in both modes, `push_local32` and `pop` complete, driving the outputs of R171, R173 and R175 and changing
nothing else. Decisions of the spec's own (log entry 14): the spellings `push` and `pop` D6, the control-flow bits D7, the
STACK tag and the false IP-relative flag of `push_local32` D9, the declared width 5 of its flag and the kind CONST D10,
the port list D2, the flag positions D3 and the slot layout D5, and the form of the line D12 to D16. -/
def Obligations.StackInstructionsComplete : Prop :=
  ∀ (ra : RegIdx) (imm21 : BitVec 21) (flag : BitVec 5) (imm16 : BitVec 16) (pop22 : BitVec 22) (pop4 : BitVec 4) (s : State),
    (∃ t, exec (.push 30 imm21) s = .next t ∧
      OutputsBecome ⟨text "push", Config.params.opcOf .push, true,
        (Config.params.useChg (Config.params.opcOf .push)).withControl false false false,
        [.imm (imm21.setWidth 32) 21 .const]⟩ s t) ∧
    (ra ≠ 30 → ∃ t, exec (.push ra imm21) s = .next t ∧
      OutputsBecome ⟨text "push", Config.params.opcOf .push, true,
        (Config.params.useChg (Config.params.opcOf .push)).withControl false false false, [.reg ra]⟩ s t) ∧
    (∃ t, exec (.pushLocal32 flag imm16) s = .next t ∧
      OutputsBecome ⟨text "push_local32", Config.params.opcOf .pushLocal32, true,
        (Config.params.useChg (Config.params.opcOf .pushLocal32)).withControl false false false,
        [.imm (flag.setWidth 32) 5 .constBool,
          .ref (.expr (.reg 30) .add (.imm (imm16.setWidth 32) 16 .const)) .stack false]⟩ s t) ∧
    (∃ t, exec (.pop pop22 pop4) s = .next t ∧
      OutputsBecome ⟨text "pop", Config.params.opcOf .pop, true,
        (Config.params.useChg (Config.params.opcOf .pop)).withControl false false false,
        [.imm (pop22.setWidth 32) 22 .const, .imm (pop4.setWidth 32) 4 .const]⟩ s t)

/-- `st_mem32`, `st_mem8` and `st_gc` complete for every operand, driving the outputs of R180 to R183 and changing nothing
else. Decisions of the spec's own (log entry 14): the control-flow bits D7, the order of the operands D8, the false
IP-relative flag D9, the kind CONST D10, the port list D2, the flag positions D3 and the slot layout D5, and the form of
the line D12 to D16. -/
def Obligations.StoresComplete : Prop :=
  ∀ (ra rb : RegIdx) (imm16 : BitVec 16) (s : State), ∃ dest value : Operand,
    dest =
      (if ra = 30 then .ref (.expr (.reg 30) .add (.imm (imm16.setWidth 32) 16 .const)) .stack false
      else if imm16 = 0 then .ref (.reg ra) .global false
      else if imm16 = 1 then .ref (.reg ra) .stack false
      else .ref (.reg ra) .unified false) ∧
    value = (if rb = 31 then .imm 0 32 .const else .reg rb) ∧
    (∃ t, exec (.stMem32 ra rb imm16) s = .next t ∧
      OutputsBecome ⟨text "st_mem32", 0x30, true, (Config.params.useChg 0x30).withControl false false false,
        [dest, value]⟩ s t) ∧
    (∃ t, exec (.stMem8 ra rb imm16) s = .next t ∧
      OutputsBecome ⟨text "st_mem8", Config.params.opcOf .stMem8, true,
        (Config.params.useChg (Config.params.opcOf .stMem8)).withControl false false false, [dest, value]⟩ s t) ∧
    (∃ t, exec (.stGc ra rb imm16) s = .next t ∧
      OutputsBecome ⟨text "st_gc", Config.params.opcOf .stGc, true,
        (Config.params.useChg (Config.params.opcOf .stGc)).withControl false false false, [dest, value]⟩ s t)

/-- `decref` and `mov` complete in both modes, driving the outputs of R186 and R189 and changing nothing else. Decisions
of the spec's own (log entry 14): the control-flow bits D7, the Reference of `decref` with its STACK tag and false
IP-relative flag D9, the kind CONST D10, the port list D2, the flag positions D3 and the slot layout D5, and the form of
the line D12 to D16. -/
def Obligations.DecrefAndMovComplete : Prop :=
  ∀ (ra rb : RegIdx) (imm21 : BitVec 21) (imm16 : BitVec 16) (s : State),
    (∃ t, exec (.decref 30 imm21) s = .next t ∧
      OutputsBecome ⟨text "decref", Config.params.opcOf .decref, true,
        (Config.params.useChg (Config.params.opcOf .decref)).withControl false false false,
        [.ref (.expr (.reg 30) .add (.imm (imm21.setWidth 32) 21 .const)) .stack false]⟩ s t) ∧
    (ra ≠ 30 → ∃ t, exec (.decref ra imm21) s = .next t ∧
      OutputsBecome ⟨text "decref", Config.params.opcOf .decref, true,
        (Config.params.useChg (Config.params.opcOf .decref)).withControl false false false,
        [.ref (.expr (.reg 30) .add (.expr (.reg ra) .add (.imm (imm21.setWidth 32) 21 .const))) .stack false]⟩ s t) ∧
    (∃ t, exec (.mov ra rb 0) s = .next t ∧
      OutputsBecome ⟨text "mov", 0x16, true, (Config.params.useChg 0x16).withControl false false false,
        [.reg ra, .reg rb]⟩ s t) ∧
    (imm16 ≠ 0 → ∃ t, exec (.mov ra rb imm16) s = .next t ∧
      OutputsBecome ⟨text "mov", 0x16, true, (Config.params.useChg 0x16).withControl false false false,
        [.reg ra, .expr (.reg rb) .add (.imm (imm16.setWidth 32) 16 .const)]⟩ s t)

/-- `mkgc`, `unk_36` and the rows of `TABLE` that spec/opcode_table.json does not list complete: mnemonic, opcode
echo, hit and flags are those of R187, R190 and R36, the operands those of the entry's rule on the word (log entries
1, 6 and 7). `ud_<XX>` completes with the outputs of R200. Nothing else changes. Decisions of the spec's own (log
entry 14): `hit` beside flags 0 D4, the control-flow bits 0 of `mkgc` D7, the constant operand count of an open rule
D23 (log entry 7), the port list D2, the flag positions D3 and the slot layout D5, and the form of the line D12 to
D16. -/
def Obligations.OpenAndUnknownEntriesComplete : Prop :=
  ∀ (opc : Opcode) (low26 : BitVec 26) (s : State),
    (∃ t, exec (.mkgc low26) s = .next t ∧
      OutputsBecome ⟨text "mkgc", Config.params.opcOf .mkgc, true,
        (Config.params.useChg (Config.params.opcOf .mkgc)).withControl false false false,
        openOperands Config.params (Config.params.opcOf .mkgc) (joinWord (Config.params.opcOf .mkgc) low26)⟩ s t) ∧
    (∃ t, exec (.unk36 low26) s = .next t ∧
      OutputsBecome ⟨text "unk_36", 0x36, true, ⟨false, false, false, false, false, false, false, false, false⟩,
        openOperands Config.params 0x36 (joinWord 0x36 low26)⟩ s t) ∧
    (∃ t, exec (.row opc low26) s = .next t ∧
      OutputsBecome (rowResult opc (ruleOperands Config.params (Config.params.row opc).rule (joinWord opc low26))) s t) ∧
    (∃ t, exec (.ud opc) s = .next t ∧
      OutputsBecome ⟨text "ud_" ++ hex2 opc, opc, false, ⟨false, false, false, false, false, false, false, false, false⟩, []⟩ s t)

/-! ### Steps -/

/-- A step presents the next four bytes as a word and runs the instruction it decodes to, and the host writes the line
(R203); with no whole word left it runs the instruction on `word_i` and nothing is written. The stream fields are the
model's own (log entry 4, DESIGN CHOICE); the second clause is its choice (log entry 5, DESIGN CHOICE). Decisions of
the spec's own (log entry 14): the line feed after a line D20. -/
def Obligations.StepRunsTheDecodedInstruction : Prop :=
  (∀ (s t : State) (b0 b1 b2 b3 : Byte) (rest : List Byte) (i : Instr),
    s.stream = b0 :: b1 :: b2 :: b3 :: rest → decode (wordOfBytes b0 b1 b2 b3) = i → i.wf = true →
    exec i { s with wordI := wordOfBytes b0 b1 b2 b3, consumed := s.consumed ++ [b0, b1, b2, b3], stream := rest } = .next t →
    step s = .next { t with listing := t.listing ++ (t.line ++ ['\n']) }) ∧
  (∀ (s : State) (i : Instr), s.stream.length < 4 → decode s.wordI = i → i.wf = true → step s = exec i s)

/-- A word placed where the host's stream is read next is the word the very next step runs. The whole statement is the
model's choice: the stream is DESIGN CHOICE 4, the placing of a word in it DESIGN CHOICE 10 (log entries 4 and 10).
R51 gives the byte order alone. -/
def Obligations.PlacedWordIsRunNext : Prop :=
  ∀ (s : State) (nbits : Nat) (w : Word),
    step (s.withFetchWord nbits w.toNat) = afterPresented (exec (decode w) (present w (s.stream.drop 4) s))

/-- R10 makes decode and render total. That every step of every state goes on is read from it (DEDUCED, log entry 15); the
stream a step reads is DESIGN CHOICE 4, the step at the end of a stream DESIGN CHOICE 5. -/
def Obligations.EveryStepGoesOn : Prop :=
  ∀ s : State, Completes (step s)

/-- R202 and R260: after every step, from any state, the result is `decode(TABLE, word_i)`, the ports carry it, and the
line is its rendering. Decisions of the spec's own (log entry 14): that the outputs are combinational D1, and the port
list D2. -/
def Obligations.EveryStepGivesTheBlockFunction : Prop :=
  ∀ s t : State, step s = .next t → OutputsFollowInput t

/-- The reset state's outputs are those for its `word_i` (R260), and its listing is that of the empty prefix of the
stream. That `word_i` is 0 there is DESIGN CHOICE 3, the stream fields are DESIGN CHOICE 4. Decisions of the spec's own
(log entry 14): that the outputs are combinational D1, and the port list D2. -/
def Obligations.ResetMeetsTheInvariants : Prop :=
  OutputsFollowInput State.reset ∧ ListingFollowsStream State.reset

/-- R117, R134, R137, R181, R189, R190: what a step gives for a presented word of each opcode the source numbers. The
stream is the model's own (log entry 4, DESIGN CHOICE). Decisions of the spec's own (log entry 14): the control-flow
bits D7 and, in the operands of the decode rules, the operand order D8, tags and IP-relative flags D9, widths and
kinds D10, and the uncut value D11. -/
def Obligations.NumberedInstructionsAtAStep : Prop :=
  ∀ (s : State) (w : Word) (rest : List Byte), takeWord s.stream = some (w, rest) →
    ∃ t, step s = .next t ∧ t.wordI = w ∧
      (extract w 26 32 = 0x00 → t.decoded = ⟨text "add", 0x00, true,
        (Config.params.useChg 0x00).withControl false false false, ruleOperands Config.params .DR_RRR w⟩) ∧
      (extract w 26 32 = 0x07 → t.decoded = ⟨text "jmp", 0x07, true,
        (Config.params.useChg 0x07).withControl true false true, ruleOperands Config.params .DR_JMP w⟩) ∧
      (extract w 26 32 = 0x0F → t.decoded = ⟨text "call", 0x0F, true,
        (Config.params.useChg 0x0F).withControl false true false, ruleOperands Config.params .DR_CALL w⟩) ∧
      (extract w 26 32 = 0x16 → t.decoded = ⟨text "mov", 0x16, true,
        (Config.params.useChg 0x16).withControl false false false, ruleOperands Config.params .DR_MOV w⟩) ∧
      (extract w 26 32 = 0x30 → t.decoded = ⟨text "st_mem32", 0x30, true,
        (Config.params.useChg 0x30).withControl false false false, ruleOperands Config.params .DR_STORE w⟩) ∧
      (extract w 26 32 = 0x36 → t.decoded = ⟨text "unk_36", 0x36, true,
        ⟨false, false, false, false, false, false, false, false, false⟩, openOperands Config.params 0x36 w⟩)

/-- R131, R132, R139, R156, R158, R171, R173, R175, R182, R183, R186, R187: what a step gives for a presented word of
each opcode the source names without a number, whatever that number. The stream is the model's own (log entry 4,
DESIGN CHOICE). Decisions of the spec's own (log entry 14): the spellings `push`, `pop` and `retn` D6, the
control-flow bits D7 and, in the operands of the decode rules, the operand order D8, tags and IP-relative flags D9,
widths and kinds D10. -/
def Obligations.NamedInstructionsAtAStep : Prop :=
  ∀ (s : State) (w : Word) (rest : List Byte), takeWord s.stream = some (w, rest) →
    ∀ (m : Unnumbered), extract w 26 32 = (Config.params.opcOf m).toNat →
    ∃ t, step s = .next t ∧ t.wordI = w ∧ t.decoded.opcode = Config.params.opcOf m ∧ t.decoded.hit = true ∧
      (t.decoded.mnemonic, t.decoded.operands) =
        (match m with
        | .jz => (text "jz", ruleOperands Config.params .DR_BRC w)
        | .jnz => (text "jnz", ruleOperands Config.params .DR_BRC w)
        | .retn => (text "retn", ruleOperands Config.params .DR_RETN w)
        | .ldLocal32b => (text "ld_local32b", ruleOperands Config.params .DR_LDLOC w)
        | .mkstr => (text "mkstr", ruleOperands Config.params .DR_MKSTR w)
        | .push => (text "push", ruleOperands Config.params .DR_PUSH w)
        | .pushLocal32 => (text "push_local32", ruleOperands Config.params .DR_PUSHLOC w)
        | .pop => (text "pop", ruleOperands Config.params .DR_POP w)
        | .stMem8 => (text "st_mem8", ruleOperands Config.params .DR_STORE w)
        | .stGc => (text "st_gc", ruleOperands Config.params .DR_STORE w)
        | .decref => (text "decref", ruleOperands Config.params .DR_DECREF w)
        | .mkgc => (text "mkgc", openOperands Config.params (Config.params.opcOf .mkgc) w)) ∧
      t.decoded.flags =
        (match m with
        | .jz | .jnz => (Config.params.useChg (Config.params.opcOf m)).withControl true false false
        | .retn => (Config.params.useChg (Config.params.opcOf m)).withControl false false true
        | .ldLocal32b | .mkstr | .push | .pushLocal32 | .pop | .stMem8 | .stGc | .decref | .mkgc =>
          (Config.params.useChg (Config.params.opcOf m)).withControl false false false)

/-- R56: the outputs after a presented word depend on the word and the table only, whatever was decoded before. The stream
fields are DESIGN CHOICE 4. -/
def Obligations.OutputsForgetThePast : Prop :=
  ∀ (s s' : State) (w : Word) (rest rest' : List Byte),
    takeWord s.stream = some (w, rest) → takeWord s'.stream = some (w, rest') →
    ∃ t t', step s = .next t ∧ step s' = .next t' ∧
      t.wordI = t'.wordI ∧ t.decoded = t'.decoded ∧ t.ports = t'.ports ∧ t.line = t'.line

/-- R53, R247: decoding is idempotent; a word standing on `word_i` decoded again changes nothing. That nothing is
presented when fewer than four bytes are left is DESIGN CHOICE 5. Decisions of the spec's own (log entry 14): that the
outputs are combinational D1. -/
def Obligations.DecodingAgainChangesNothing : Prop :=
  ∀ s : State, OutputsFollowInput s → s.stream.length < 4 → step s = .next s

/-- Every step keeps the listing that of the words presented so far, one line each in order (R203, R52). The fields are
DESIGN CHOICE 4. Decisions of the spec's own (log entry 14): the line feed after a line D20. -/
def Obligations.EveryStepKeepsTheListing : Prop :=
  ∀ s t : State, ListingFollowsStream s → step s = .next t → ListingFollowsStream t

/-- R203: the listing of the bytes of n words is one newline-terminated line per word, in input order, each the rendering
of that word's decoding, under every admissible table. -/
def Obligations.DisassembleWritesOneLinePerWord : Prop :=
  ∀ (p : Params) (words : List Word),
    disassemble p (words.flatMap bytesOfWord) = words.flatMap (fun w => render (decodeInstruction p w) ++ ['\n'])

/-- A stream of n words runs in n steps to its whole listing: nothing is left in the stream, all of it has been presented,
and what was written is `disassemble` of its bytes. The stream fields are DESIGN CHOICE 4. Decisions of the spec's own
(log entry 14): the line feed after a line D20. -/
def Obligations.StreamRunsToItsListing : Prop :=
  ∀ (words : List Word) (s : State), s.stream = words.flatMap bytesOfWord →
    ∃ t, Host.Core.run core words.length s = .next t ∧ t.stream = [] ∧ t.consumed = s.consumed ++ s.stream ∧
      t.listing = s.listing ++ disassemble Config.params s.stream

/-! ### Host metadata -/

/-- R142: the jump-target operand of `jz` and `jnz` is operand 2 and of `jmp` operand 1, each a CODE reference; the target
of `call` is operand 1, never a Reference. Decisions of the spec's own (log entry 14): the reading of conflict C6 and the
control-flow bits D7. -/
def Obligations.JumpTargetOperands : Prop :=
  ∀ (p : Params) (w : Word),
    (extract w 26 32 = (p.opcOf .jz).toNat ∨ extract w 26 32 = (p.opcOf .jnz).toNat →
      ∃ inner, jumpTarget (decodeInstruction p w) = some (.ref inner .code true) ∧
        (decodeInstruction p w).operands[1]? = some (.ref inner .code true)) ∧
    (extract w 26 32 = 0x07 →
      ∃ inner, jumpTarget (decodeInstruction p w) = some (.ref inner .code true) ∧
        (decodeInstruction p w).operands[0]? = some (.ref inner .code true)) ∧
    (extract w 26 32 = 0x0F →
      ∃ o, callTarget (decodeInstruction p w) = some o ∧ (decodeInstruction p w).operands[0]? = some o ∧
        ∀ inner space iprel, o ≠ .ref inner space iprel)

/-- R143, under the literal reading of R141 (log entry 12): the successors of the instruction at byte address `A`, as
integers that do not wrap (DESIGN CHOICE 20). Decisions of the spec's own (log entry 14): the control-flow bits D7 and the
literal reading D21. -/
def Obligations.SuccessorsOfAnInstruction : Prop :=
  ∀ (p : Params) (w : Word) (A : Nat),
    (extract w 26 32 = (p.opcOf .jz).toNat ∨ extract w 26 32 = (p.opcOf .jnz).toNat →
      successors literalReading A (decodeInstruction p w) = [(A : Int) + 4, (A : Int) + 4 * extract w 0 21]) ∧
    (extract w 26 32 = 0x07 → successors literalReading A (decodeInstruction p w) = [(A : Int) + 4 * extract w 0 21]) ∧
    (extract w 26 32 = (p.opcOf .retn).toNat → successors literalReading A (decodeInstruction p w) = []) ∧
    (extract w 26 32 = 0x0F → successors literalReading A (decodeInstruction p w) = [(A : Int) + 4]) ∧
    ((decodeInstruction p w).flags.jump = false → (decodeInstruction p w).flags.noFall = false →
      successors literalReading A (decodeInstruction p w) = [(A : Int) + 4]) ∧
    (tableEntry p (extractFields w).opc = none → successors literalReading A (decodeInstruction p w) = [(A : Int) + 4])

/-! ### The renderer -/

/-- R211 and R213: the text of each of the 32 registers; `false` for a CONST_BOOL immediate of value 0, `true` for every
other value. Decisions of the spec's own (log entry 14): decimal register numbers D13. -/
def Obligations.RegisterAndBoolTexts : Prop :=
  (List.range 32).map (fun i => renderOperand (.reg (BitVec.ofNat 5 i))) =
    ["r0", "r1", "r2", "r3", "r4", "r5", "r6", "r7", "r8", "r9", "r10", "r11", "r12", "r13", "r14", "r15", "r16", "r17",
      "r18", "r19", "r20", "r21", "r22", "r23", "r24", "r25", "r26", "r27", "r28", "r29", "bp", "sp"].map text ∧
  ∀ (v : BitVec 32) (width : Fin 33),
    renderOperand (.imm v width .constBool) = if v.toNat = 0 then text "false" else text "true"

/-- R212: a CONST immediate renders as `#`, at least two uppercase hexadecimal digits without further leading zeros, and
`h`; the digits spell the value and the declared width does not matter. Decisions of the spec's own (log entry 14): the
uncut value D11 and the form D12. -/
def Obligations.ConstImmediateText : Prop :=
  ∀ (v : BitVec 32) (width : Fin 33), ∃ ds : Text,
    renderOperand (.imm v width .const) = '#' :: (ds ++ ['h']) ∧
    2 ≤ ds.length ∧ (∀ c ∈ ds, c ∈ text "0123456789ABCDEF") ∧ readDigits 16 ds = v.toNat ∧
    (2 < ds.length → ds.head? ≠ some '0')

/-- R216: a FIXED immediate renders as its high bits, a point and its low 11 bits, each in decimal without leading zeros.
Decisions of the spec's own (log entry 14): the form D14. -/
def Obligations.FixedImmediateText : Prop :=
  ∀ (v : BitVec 32) (width : Fin 33), ∃ hi lo : Text,
    renderOperand (.imm v width .fixed) = hi ++ '.' :: lo ∧
    (∀ c ∈ hi ++ lo, c ∈ text "0123456789") ∧
    readDigits 10 hi = v.toNat / 2 ^ 11 ∧ readDigits 10 lo = v.toNat % 2 ^ 11 ∧
    hi ≠ [] ∧ lo ≠ [] ∧ (1 < hi.length → hi.head? ≠ some '0') ∧ (1 < lo.length → lo.head? ≠ some '0')

/-- R214 and R217: an Expression renders as its sides around the operator's symbol, a Reference as prefix, brackets, a `+`
when IP-relative, and the inner text. Decisions of the spec's own (log entry 14): nested Expressions without parentheses
D16. -/
def Obligations.ExpressionAndReferenceTexts : Prop :=
  ∀ (l r : Operand),
    renderOperand (.expr l .add r) = renderOperand l ++ text "+" ++ renderOperand r ∧
    renderOperand (.expr l .sub r) = renderOperand l ++ text "-" ++ renderOperand r ∧
    renderOperand (.expr l .shl r) = renderOperand l ++ text "<<" ++ renderOperand r ∧
    renderOperand (.expr l .shr r) = renderOperand l ++ text ">>" ++ renderOperand r ∧
    renderOperand (.ref l .code false) = text "c::[" ++ renderOperand l ++ text "]" ∧
    renderOperand (.ref l .code true) = text "c::[+" ++ renderOperand l ++ text "]" ∧
    renderOperand (.ref l .global false) = text "g::[" ++ renderOperand l ++ text "]" ∧
    renderOperand (.ref l .global true) = text "g::[+" ++ renderOperand l ++ text "]" ∧
    renderOperand (.ref l .unified false) = text "u::[" ++ renderOperand l ++ text "]" ∧
    renderOperand (.ref l .unified true) = text "u::[+" ++ renderOperand l ++ text "]" ∧
    renderOperand (.ref l .stack false) = text "s::[" ++ renderOperand l ++ text "]" ∧
    renderOperand (.ref l .stack true) = text "s::[+" ++ renderOperand l ++ text "]"

/-- R219 and R220: a line is the mnemonic, padded with spaces to 16 columns and never cut, one space, and the operand
texts joined by a comma and a space. Decisions of the spec's own (log entry 14): the uncut mnemonic and the written space
D15, and its own inference the column width. -/
def Obligations.LineFormat : Prop :=
  ∀ d : DecodedInstruction, ∃ pad : Text,
    render d = d.mnemonic ++ pad ++ text " " ++ List.intercalate (text ", ") (d.operands.map renderOperand) ∧
    (∀ c ∈ pad, c = ' ') ∧ pad.length = 16 - d.mnemonic.length

/-- R210: the line of every word, under every admissible table, holds only ASCII characters without a line break (decision
D20; for the mnemonics of open rows log entry 17), and so does the line of any decoded instruction whose mnemonic does. -/
def Obligations.LinesAreAsciiWithoutBreaks : Prop :=
  (∀ (p : Params) (w : Word), ∀ c ∈ render (decodeInstruction p w), lineChar c = true) ∧
  (∀ d : DecodedInstruction, (∀ c ∈ d.mnemonic, lineChar c = true) → ∀ c ∈ render d, lineChar c = true)

/-- The text of an operand of a catalogued rule has at most 20 characters, and `decref` reaches 20 with a register of two
digits; the operand R224 calls the longest, with `sp`, has 19 (log entry 18). Decisions of the spec's own (log entry 14):
the text forms D12, D13 and D16, and the Reference of `decref` D9. -/
def Obligations.OperandTextLengthBound : Prop :=
  (∀ (p : Params) (rule : DecodeRule) (w : Word) (o : Operand), rule ≠ .DR_OPEN → o ∈ ruleOperands p rule w →
    (renderOperand o).length ≤ 20) ∧
  (∀ p : Params, ∃ w o, o ∈ ruleOperands p .DR_DECREF w ∧ (renderOperand o).length = 20) ∧
  (∀ p : Params, ∃ w o, o ∈ ruleOperands p .DR_DECREF w ∧ renderOperand o = text "s::[bp+sp+#1FFFFFh]" ∧
    (renderOperand o).length = 19)
end

