-- ==== Sys2Proof/Laws/Table.lean ====
section
/-! SUPPORT. What a slot of the opcode table holds. -/

namespace Sys2Proof

theorem pinnedAt_opcode (m : Pinned) : pinnedAt m.opcode = some m := by
  cases m <;> decide

theorem pinnedAt_eq_some {k : Opcode} {m : Pinned} (h : pinnedAt k = some m) : m.opcode = k := by
  have := List.find?_some h
  simpa using this

theorem pinned_opcode_le (p : Params) (m : Pinned) : m.opcode ≤ p.lastOpc := by
  have h := p.lastOpc_ge
  cases m <;> simp only [Pinned.opcode] <;> bv_omega

theorem pinnedAt_unnumbered (p : Params) (m : Unnumbered) : pinnedAt (p.opcOf m) = none := by
  obtain ⟨h0, h7, hF, h16, h30, h36⟩ := p.opcOf_unpinned m
  refine List.find?_eq_none.mpr fun n _ => ?_
  cases n <;> simp only [Pinned.opcode, beq_iff_eq] <;> intro h <;> simp_all

theorem unnumberedAt_opcOf (p : Params) (m : Unnumbered) : unnumberedAt p (p.opcOf m) = some m := by
  have h : ∀ n, (p.opcOf n == p.opcOf m) = decide (n = m) := by
    intro n
    by_cases e : n = m
    · simp [e]
    · have hne : p.opcOf n ≠ p.opcOf m := fun h => e (p.opcOf_injective n m h)
      simp [e, hne]
  simp only [unnumberedAt, h]
  cases m <;> decide

theorem unnumberedAt_eq_some {p : Params} {k : Opcode} {m : Unnumbered} (h : unnumberedAt p k = some m) :
    p.opcOf m = k := by
  have := List.find?_some h
  simpa using this

/-- A pinned opcode's slot holds the pinned entry under every table. -/
@[simp] theorem tableSlot_pinned (p : Params) (m : Pinned) : tableSlot p m.opcode = .pinned m := by
  simp [tableSlot, pinnedAt_opcode]

/-- A named mnemonic's slot holds its entry under every table. -/
@[simp] theorem tableSlot_unnumbered (p : Params) (m : Unnumbered) : tableSlot p (p.opcOf m) = .unnumbered m := by
  have h : ¬ p.lastOpc < p.opcOf m := by
    have := p.opcOf_le m
    bv_omega
  simp [tableSlot, pinnedAt_unnumbered, unnumberedAt_opcOf, h]

/-- What a slot of the table can hold, and what follows for its opcode. -/
theorem tableSlot_cases (p : Params) (k : Opcode) :
    (∃ m, tableSlot p k = .pinned m ∧ m.opcode = k) ∨ (∃ m, tableSlot p k = .unnumbered m ∧ p.opcOf m = k) ∨
      (tableSlot p k = .unnamed (p.row k) ∧ k ≤ p.lastOpc) ∨ (tableSlot p k = .empty ∧ p.lastOpc < k) := by
  unfold tableSlot
  split
  · next m h => exact .inl ⟨m, rfl, pinnedAt_eq_some h⟩
  · split
    · next h => exact .inr (.inr (.inr ⟨rfl, h⟩))
    · next h =>
      split
      · next m hm => exact .inr (.inl ⟨m, rfl, unnumberedAt_eq_some hm⟩)
      · exact .inr (.inr (.inl ⟨rfl, by bv_omega⟩))

/-- An unnamed slot holds the row of its own opcode. -/
theorem tableSlot_unnamed {p : Params} {k : Opcode} {r : Row} (h : tableSlot p k = .unnamed r) : r = p.row k := by
  rcases tableSlot_cases p k with ⟨_, e, _⟩ | ⟨_, e, _⟩ | ⟨e, _⟩ | ⟨e, _⟩ <;> rw [e] at h <;> cases h
  rfl

/-- The mnemonic of every entry, under every admissible table, holds only characters a line may hold (R210, R223). -/
theorem tableEntry_mnemonic_lineChar {p : Params} {k : Opcode} {e : Entry} (h : tableEntry p k = some e) :
    e.mnemonic.all lineChar = true := by
  unfold tableEntry at h
  split at h
  · next m _ => cases h; cases m <;> rfl
  · next m _ => cases h; cases m <;> rfl
  · next r hr =>
    cases h
    rw [tableSlot_unnamed hr]
    exact p.row_mnemonic_lineChar k
  · cases h

theorem rowBoundTo_iff (p : Params) (k : Opcode) (rule : DecodeRule) :
    rowBoundTo p k rule = true ↔ tableSlot p k = .unnamed (p.row k) ∧ (p.row k).rule = rule := by
  unfold rowBoundTo
  split
  · next r h => obtain rfl := tableSlot_unnamed h; simp [h]
  all_goals next h => simp [h]

theorem otherRow_iff (p : Params) (k : Opcode) :
    otherRow p k = true ↔ tableSlot p k = .unnamed (p.row k) ∧ (p.row k).rule.hasTableRow = false := by
  unfold otherRow
  split
  · next r h => obtain rfl := tableSlot_unnamed h; simp [h]
  all_goals next h => simp [h]

end Sys2Proof
end

