-- ==== Sys2Proof/Laws/Encoding.lean ====
section
/-! SUPPORT. Numerical values of encoded words, format by format, of extracted fields, and of stream bytes. -/

namespace Sys2Proof

theorem append_toNat {m n : Nat} (x : BitVec m) (y : BitVec n) : (x ++ y).toNat = x.toNat * 2 ^ n + y.toNat := by
  rw [BitVec.toNat_append, ← Nat.shiftLeft_add_eq_or_of_lt y.isLt, Nat.shiftLeft_eq]

@[simp] theorem joinWord_toNat (k : Opcode) (l : BitVec 26) : (joinWord k l).toNat = k.toNat * 2 ^ 26 + l.toNat :=
  append_toNat k l

@[simp] theorem lowR_toNat (ra : RegIdx) :
    (lowR ra).toNat = ra.toNat * 2 ^ 21 := by
  unfold lowR
  repeat rw [append_toNat]
  simp

@[simp] theorem lowRR_toNat (ra rb : RegIdx) :
    (lowRR ra rb).toNat = ra.toNat * 2 ^ 21 + rb.toNat * 2 ^ 16 := by
  unfold lowRR
  repeat rw [append_toNat]
  simp
  omega

@[simp] theorem lowRRR_toNat (ra rb rc : RegIdx) :
    (lowRRR ra rb rc).toNat = ra.toNat * 2 ^ 21 + rb.toNat * 2 ^ 16 + rc.toNat * 2 ^ 11 := by
  unfold lowRRR
  repeat rw [append_toNat]
  simp
  omega

@[simp] theorem lowRI21_toNat (ra : RegIdx) (imm21 : BitVec 21) :
    (lowRI21 ra imm21).toNat = ra.toNat * 2 ^ 21 + imm21.toNat := by
  unfold lowRI21
  repeat rw [append_toNat]

@[simp] theorem lowRI16_toNat (ra : RegIdx) (imm16 : BitVec 16) :
    (lowRI16 ra imm16).toNat = ra.toNat * 2 ^ 21 + imm16.toNat := by
  unfold lowRI16
  repeat rw [append_toNat]
  simp
  omega

@[simp] theorem lowRI8_toNat (ra : RegIdx) (imm8 : BitVec 8) :
    (lowRI8 ra imm8).toNat = ra.toNat * 2 ^ 21 + imm8.toNat := by
  unfold lowRI8
  repeat rw [append_toNat]
  simp
  omega

@[simp] theorem lowI21_toNat (imm21 : BitVec 21) :
    (lowI21 imm21).toNat = imm21.toNat := by
  unfold lowI21
  repeat rw [append_toNat]
  simp

@[simp] theorem lowRRI16_toNat (ra rb : RegIdx) (imm16 : BitVec 16) :
    (lowRRI16 ra rb imm16).toNat = ra.toNat * 2 ^ 21 + rb.toNat * 2 ^ 16 + imm16.toNat := by
  unfold lowRRI16
  repeat rw [append_toNat]
  simp
  omega

@[simp] theorem lowI16_toNat (imm16 : BitVec 16) :
    (lowI16 imm16).toNat = imm16.toNat := by
  unfold lowI16
  repeat rw [append_toNat]
  simp

@[simp] theorem lowCALL_toNat (ra : RegIdx) (fidx20 : BitVec 20) (flag0 : BitVec 1) :
    (lowCALL ra fidx20 flag0).toNat = ra.toNat * 2 ^ 21 + fidx20.toNat * 2 + flag0.toNat := by
  unfold lowCALL
  repeat rw [append_toNat]
  omega

@[simp] theorem lowPOP_toNat (pop22 : BitVec 22) (pop4 : BitVec 4) :
    (lowPOP pop22 pop4).toNat = pop22.toNat * 2 ^ 4 + pop4.toNat := by
  unfold lowPOP
  repeat rw [append_toNat]

theorem opc_toNat (w : Word) : (extractFields w).opc.toNat = w.toNat / 2 ^ 26 % 2 ^ 6 := by
  simp [extractFields, BitVec.extractLsb'_toNat, Nat.shiftRight_eq_div_pow]

/-- The opcode by R8's formula is the opcode by the wire slice. -/
theorem extract_opc (w : Word) : extract w 26 32 = (extractFields w).opc.toNat := by
  rw [opc_toNat, extract, Nat.shiftLeft_eq, Nat.shiftRight_eq_div_pow, Nat.and_comm]
  apply Nat.eq_of_testBit_eq
  intro i
  rw [Nat.testBit_div_two_pow, Nat.testBit_and, Nat.testBit_mod_two_pow, Nat.testBit_div_two_pow, Nat.testBit_mul_two_pow,
    Nat.testBit_two_pow_sub_one]
  simp [Bool.and_comm]

theorem ra_toNat (w : Word) : (extractFields w).ra.toNat = w.toNat / 2 ^ 21 % 2 ^ 5 := by
  simp [extractFields, BitVec.extractLsb'_toNat, Nat.shiftRight_eq_div_pow]

theorem rb_toNat (w : Word) : (extractFields w).rb.toNat = w.toNat / 2 ^ 16 % 2 ^ 5 := by
  simp [extractFields, BitVec.extractLsb'_toNat, Nat.shiftRight_eq_div_pow]

theorem rc_toNat (w : Word) : (extractFields w).rc.toNat = w.toNat / 2 ^ 11 % 2 ^ 5 := by
  simp [extractFields, BitVec.extractLsb'_toNat, Nat.shiftRight_eq_div_pow]

theorem imm21_toNat (w : Word) : (extractFields w).imm21.toNat = w.toNat % 2 ^ 21 := by
  simp [extractFields, BitVec.extractLsb'_toNat, Nat.shiftRight_eq_div_pow]

theorem imm16_toNat (w : Word) : (extractFields w).imm16.toNat = w.toNat % 2 ^ 16 := by
  simp [extractFields, BitVec.extractLsb'_toNat, Nat.shiftRight_eq_div_pow]

theorem imm8_toNat (w : Word) : (extractFields w).imm8.toNat = w.toNat % 2 ^ 8 := by
  simp [extractFields, BitVec.extractLsb'_toNat, Nat.shiftRight_eq_div_pow]

theorem fidx20_toNat (w : Word) : (extractFields w).fidx20.toNat = w.toNat / 2 ^ 1 % 2 ^ 20 := by
  simp [extractFields, BitVec.extractLsb'_toNat, Nat.shiftRight_eq_div_pow]

theorem flag0_toNat (w : Word) : (extractFields w).flag0.toNat = w.toNat % 2 ^ 1 := by
  simp [extractFields, BitVec.extractLsb'_toNat, Nat.shiftRight_eq_div_pow]

theorem pop22_toNat (w : Word) : (extractFields w).pop22.toNat = w.toNat / 2 ^ 4 % 2 ^ 22 := by
  simp [extractFields, BitVec.extractLsb'_toNat, Nat.shiftRight_eq_div_pow]

theorem pop4_toNat (w : Word) : (extractFields w).pop4.toNat = w.toNat % 2 ^ 4 := by
  simp [extractFields, BitVec.extractLsb'_toNat, Nat.shiftRight_eq_div_pow]

theorem low26Of_toNat (w : Word) : (low26Of w).toNat = w.toNat % 2 ^ 26 := by
  simp [low26Of, BitVec.extractLsb'_toNat, Nat.shiftRight_eq_div_pow]

@[simp] theorem fields_joinWord_opc (k : Opcode) (l : BitVec 26) : (extractFields (joinWord k l)).opc = k := by
  apply BitVec.eq_of_toNat_eq
  rw [opc_toNat, joinWord_toNat]
  omega

@[simp] theorem low26Of_joinWord (k : Opcode) (l : BitVec 26) : low26Of (joinWord k l) = l := by
  apply BitVec.eq_of_toNat_eq
  rw [low26Of_toNat, joinWord_toNat]
  omega

/-- A word is its opcode and the bits below it. -/
theorem joinWord_opc_low26 (w : Word) : joinWord (extractFields w).opc (low26Of w) = w := by
  apply BitVec.eq_of_toNat_eq
  rw [joinWord_toNat, opc_toNat, low26Of_toNat]
  omega

theorem wordOfBytes_toNat (b0 b1 b2 b3 : Byte) :
    (wordOfBytes b0 b1 b2 b3).toNat = b3.toNat * 2 ^ 24 + b2.toNat * 2 ^ 16 + b1.toNat * 2 ^ 8 + b0.toNat := by
  unfold wordOfBytes
  repeat rw [append_toNat]
  omega

/-- The four bytes of a word form it again. -/
@[simp] theorem takeWord_bytesOfWord (w : Word) (rest : List Byte) : takeWord (bytesOfWord w ++ rest) = some (w, rest) := by
  simp only [bytesOfWord, List.cons_append, List.nil_append, takeWord, Option.some.injEq, Prod.mk.injEq, and_true]
  apply BitVec.eq_of_toNat_eq
  rw [wordOfBytes_toNat]
  simp only [BitVec.extractLsb'_toNat, Nat.shiftRight_eq_div_pow]
  omega

/-- The bytes of the word four bytes form are those bytes. -/
@[simp] theorem bytesOfWord_wordOfBytes (b0 b1 b2 b3 : Byte) : bytesOfWord (wordOfBytes b0 b1 b2 b3) = [b0, b1, b2, b3] := by
  simp only [bytesOfWord, List.cons.injEq, and_true]
  refine ⟨?_, ?_, ?_, ?_⟩ <;> apply BitVec.eq_of_toNat_eq <;>
    simp only [BitVec.extractLsb'_toNat, Nat.shiftRight_eq_div_pow, wordOfBytes_toNat] <;> omega

/-- A word is taken exactly where four bytes stand. -/
theorem takeWord_eq_some_iff (bs : List Byte) (w : Word) (rest : List Byte) :
    takeWord bs = some (w, rest) ↔ bs = bytesOfWord w ++ rest := by
  constructor
  · intro h
    unfold takeWord at h
    split at h
    · next b0 b1 b2 b3 r =>
      simp only [Option.some.injEq, Prod.mk.injEq] at h
      obtain ⟨rfl, rfl⟩ := h
      simp
    · cases h
  · rintro rfl
    simp

theorem takeWord_eq_none_iff (bs : List Byte) : takeWord bs = none ↔ bs.length < 4 := by
  unfold takeWord
  split
  · simp
  · next h =>
    simp only [true_iff]
    match bs with
    | [] | [_] | [_, _] | [_, _, _] => simp
    | b0 :: b1 :: b2 :: b3 :: r => exact absurd rfl (h b0 b1 b2 b3 r)

end Sys2Proof
end

