-- ==== Sys2Proof/Laws/State.lean ====
section
/-! SUPPORT. One lemma per field per update of the state. -/

namespace Sys2Proof.Machine

variable (d : DecodedInstruction) (w : Word) (rest : List Byte) (s : State)

@[simp] theorem emit_wordI : (emit d s).wordI = s.wordI := rfl
@[simp] theorem emit_ports : (emit d s).ports = portsOf s.wordI d := rfl
@[simp] theorem emit_decoded : (emit d s).decoded = d := rfl
@[simp] theorem emit_line : (emit d s).line = render d := rfl
@[simp] theorem emit_consumed : (emit d s).consumed = s.consumed := rfl
@[simp] theorem emit_stream : (emit d s).stream = s.stream := rfl
@[simp] theorem emit_listing : (emit d s).listing = s.listing := rfl

@[simp] theorem present_wordI : (present w rest s).wordI = w := rfl
@[simp] theorem present_ports : (present w rest s).ports = s.ports := rfl
@[simp] theorem present_decoded : (present w rest s).decoded = s.decoded := rfl
@[simp] theorem present_line : (present w rest s).line = s.line := rfl
@[simp] theorem present_consumed : (present w rest s).consumed = s.consumed ++ bytesOfWord w := rfl
@[simp] theorem present_stream : (present w rest s).stream = rest := rfl
@[simp] theorem present_listing : (present w rest s).listing = s.listing := rfl

@[simp] theorem writeLine_wordI : (writeLine s).wordI = s.wordI := rfl
@[simp] theorem writeLine_ports : (writeLine s).ports = s.ports := rfl
@[simp] theorem writeLine_decoded : (writeLine s).decoded = s.decoded := rfl
@[simp] theorem writeLine_line : (writeLine s).line = s.line := rfl
@[simp] theorem writeLine_consumed : (writeLine s).consumed = s.consumed := rfl
@[simp] theorem writeLine_stream : (writeLine s).stream = s.stream := rfl
@[simp] theorem writeLine_listing : (writeLine s).listing = s.listing ++ (s.line ++ [newline]) := rfl

@[simp] theorem placeWord_wordI : (placeWord w s).wordI = s.wordI := rfl
@[simp] theorem placeWord_ports : (placeWord w s).ports = s.ports := rfl
@[simp] theorem placeWord_decoded : (placeWord w s).decoded = s.decoded := rfl
@[simp] theorem placeWord_line : (placeWord w s).line = s.line := rfl
@[simp] theorem placeWord_consumed : (placeWord w s).consumed = s.consumed := rfl
@[simp] theorem placeWord_stream : (placeWord w s).stream = bytesOfWord w ++ s.stream.drop 4 := rfl
@[simp] theorem placeWord_listing : (placeWord w s).listing = s.listing := rfl

end Sys2Proof.Machine
end

