-- ==== Sys2Proof/Laws/Exec.lean ====
section
/-! SUPPORT. Every instruction drives the outputs and nothing else; what a step can do. -/

namespace Sys2Proof.Machine

/-- The result an instruction drives the outputs to. -/
def instrResult (i : Instr) : DecodedInstruction :=
  match exec i State.reset with
  | .next t => t.decoded
  | .fault _ => missResult 0
  | .refused _ => missResult 0

/-- The one thing `exec` can do: a next state in which the outputs are those of the instruction. -/
theorem exec_eq_emit (i : Instr) (s : State) : exec i s = .next (emit (instrResult i) s) := by
  cases i <;> rfl

/-- The one thing a step can do when a whole word is left in the stream. -/
theorem step_of_takeWord {s : State} {w : Word} {rest : List Byte} (h : takeWord s.stream = some (w, rest)) :
    step s = .next (writeLine (emit (instrResult (decode w)) (present w rest s))) := by
  simp [step, h, exec_eq_emit, afterPresented]

/-- The one thing a step can do when no whole word is left. -/
theorem step_of_no_word {s : State} (h : takeWord s.stream = none) :
    step s = .next (emit (instrResult (decode s.wordI)) s) := by
  simp [step, h, exec_eq_emit]

/-- The mnemonic a renderer takes from the ports is that of the decoded instruction. -/
theorem mnem_decodeInstruction (p : Params) (w : Word) :
    mnem p (decodeInstruction p w).opcode (decodeInstruction p w).hit = (decodeInstruction p w).mnemonic := by
  cases h : tableEntry p (extractFields w).opc <;> simp [decodeInstruction, h, hitResult, missResult, mnem]

end Sys2Proof.Machine
end

