-- ==== Sys2Proof/Laws/PerInstr.lean ====
section
/-! SUPPORT. Statements for all instructions, one lemma per constructor. -/

namespace Sys2Proof.Laws.EncodedOpcode

/-- The opcode field of an instruction's word is the instruction's opcode, and the bits below it are those of its
format, under every table. -/
def Statement (i : Instr) : Prop :=
  ∀ p, (extractFields (encodeWith p i)).opc = i.opcodeWith p ∧ low26Of (encodeWith p i) = i.low26

theorem of_encodeWith (i : Instr) : Statement i := fun p => ⟨by simp [encodeWith], by simp [encodeWith]⟩

theorem add (ra rb rc : RegIdx) : Statement (.add ra rb rc) := of_encodeWith _
theorem jmp (imm21 : BitVec 21) : Statement (.jmp imm21) := of_encodeWith _
theorem call (ra : RegIdx) (fidx20 : BitVec 20) (flag0 : BitVec 1) : Statement (.call ra fidx20 flag0) := of_encodeWith _
theorem mov (ra rb : RegIdx) (imm16 : BitVec 16) : Statement (.mov ra rb imm16) := of_encodeWith _
theorem stMem32 (ra rb : RegIdx) (imm16 : BitVec 16) : Statement (.stMem32 ra rb imm16) := of_encodeWith _
theorem unk36 (low26 : BitVec 26) : Statement (.unk36 low26) := of_encodeWith _
theorem jz (ra : RegIdx) (imm21 : BitVec 21) : Statement (.jz ra imm21) := of_encodeWith _
theorem jnz (ra : RegIdx) (imm21 : BitVec 21) : Statement (.jnz ra imm21) := of_encodeWith _
theorem retn (imm16 : BitVec 16) : Statement (.retn imm16) := of_encodeWith _
theorem ldLocal32b (ra : RegIdx) (imm16 : BitVec 16) : Statement (.ldLocal32b ra imm16) := of_encodeWith _
theorem mkstr (ra : RegIdx) (imm21 : BitVec 21) : Statement (.mkstr ra imm21) := of_encodeWith _
theorem push (ra : RegIdx) (imm21 : BitVec 21) : Statement (.push ra imm21) := of_encodeWith _
theorem pushLocal32 (flag : BitVec 5) (imm16 : BitVec 16) : Statement (.pushLocal32 flag imm16) := of_encodeWith _
theorem pop (pop22 : BitVec 22) (pop4 : BitVec 4) : Statement (.pop pop22 pop4) := of_encodeWith _
theorem stMem8 (ra rb : RegIdx) (imm16 : BitVec 16) : Statement (.stMem8 ra rb imm16) := of_encodeWith _
theorem stGc (ra rb : RegIdx) (imm16 : BitVec 16) : Statement (.stGc ra rb imm16) := of_encodeWith _
theorem decref (ra : RegIdx) (imm21 : BitVec 21) : Statement (.decref ra imm21) := of_encodeWith _
theorem mkgc (low26 : BitVec 26) : Statement (.mkgc low26) := of_encodeWith _
theorem drR (opc : Opcode) (ra : RegIdx) : Statement (.drR opc ra) := of_encodeWith _
theorem drRR (opc : Opcode) (ra rb : RegIdx) : Statement (.drRR opc ra rb) := of_encodeWith _
theorem drRRR (opc : Opcode) (ra rb rc : RegIdx) : Statement (.drRRR opc ra rb rc) := of_encodeWith _
theorem drRI21 (opc : Opcode) (ra : RegIdx) (imm21 : BitVec 21) : Statement (.drRI21 opc ra imm21) := of_encodeWith _
theorem drRI16 (opc : Opcode) (ra : RegIdx) (imm16 : BitVec 16) : Statement (.drRI16 opc ra imm16) := of_encodeWith _
theorem drRI8 (opc : Opcode) (ra : RegIdx) (imm8 : BitVec 8) : Statement (.drRI8 opc ra imm8) := of_encodeWith _
theorem drRI21S11 (opc : Opcode) (ra : RegIdx) (imm21 : BitVec 21) : Statement (.drRI21S11 opc ra imm21) := of_encodeWith _
theorem drLDG (opc : Opcode) (ra : RegIdx) (imm21 : BitVec 21) : Statement (.drLDG opc ra imm21) := of_encodeWith _
theorem drLDBDG (opc : Opcode) (ra rb : RegIdx) (imm16 : BitVec 16) : Statement (.drLDBDG opc ra rb imm16) := of_encodeWith _
theorem drLDBDC (opc : Opcode) (ra rb : RegIdx) (imm16 : BitVec 16) : Statement (.drLDBDC opc ra rb imm16) := of_encodeWith _
theorem drLDBDU (opc : Opcode) (ra rb : RegIdx) (imm16 : BitVec 16) : Statement (.drLDBDU opc ra rb imm16) := of_encodeWith _
theorem drLDBDS (opc : Opcode) (ra rb : RegIdx) (imm16 : BitVec 16) : Statement (.drLDBDS opc ra rb imm16) := of_encodeWith _
theorem row (opc : Opcode) (low26 : BitVec 26) : Statement (.row opc low26) := of_encodeWith _
theorem ud (opc : Opcode) : Statement (.ud opc) := of_encodeWith _

end Sys2Proof.Laws.EncodedOpcode
end

