-- ==== Sys2Proof/Laws/Render.lean ====
section
/-! SUPPORT. Digits and padding of the renderer. -/

namespace Sys2Proof.Machine

theorem digitsIn_lt {base : Nat} (hb : 0 < base) (fuel n : Nat) : ∀ d ∈ digitsIn base fuel n, d < base := by
  induction fuel generalizing n with
  | zero => simp [digitsIn]
  | succ fuel ih =>
    intro d hd
    simp only [digitsIn] at hd
    split at hd
    · simp_all
    · rcases List.mem_append.mp hd with h | h
      · exact ih _ d h
      · simp only [List.mem_singleton] at h
        exact h ▸ Nat.mod_lt n hb

/-- Enough digits spell the number. -/
theorem digitsIn_value {base : Nat} (hb : 2 ≤ base) (fuel n : Nat) (h : n < fuel) :
    (digitsIn base fuel n).foldl (fun a d => a * base + d) 0 = n := by
  induction fuel generalizing n with
  | zero => omega
  | succ fuel ih =>
    simp only [digitsIn]
    split
    · simp
    · have hlt : n / base < fuel := by
        have := Nat.div_lt_self (show 0 < n by omega) (show 1 < base by omega)
        omega
      rw [List.foldl_append, ih _ hlt]
      simp [Nat.div_add_mod']

/-- A digit is one of the sixteen, the letters in the case asked for. -/
theorem digitChar_mem (upper : Bool) {d : Nat} (h : d < 16) :
    digitChar upper d ∈ if upper then text "0123456789ABCDEF" else text "0123456789abcdef" := by
  revert upper
  have : ∀ d : Fin 16, ∀ upper : Bool,
      digitChar upper d ∈ if upper then text "0123456789ABCDEF" else text "0123456789abcdef" := by decide
  exact this ⟨d, h⟩

@[simp] theorem length_leftJustify (t : Text) (n : Nat) : (leftJustify t n).length = max t.length n := by
  simp [leftJustify]
  omega

@[simp] theorem length_asciiBytes (t : Text) : (asciiBytes t).length = t.length := by simp [asciiBytes]

/-- A text of ASCII characters gives their codes, whatever the free value is. -/
theorem asciiBytes_of_ascii {t : Text} (h : ∀ c ∈ t, c.toNat < 128) :
    asciiBytes t = t.map (fun c => BitVec.ofNat 8 c.toNat) :=
  List.map_congr_left fun c hc => if_pos (h c hc)

end Sys2Proof.Machine
end

