-- ==== Sys2Proof/Laws/Slots.lean ====
section
/-! SUPPORT. The fields of a packed slot: what each code reads back as, and where each field of the 55 bits lies. -/

namespace Sys2Proof.Machine

@[simp] theorem kindOfBits_kindBits (k : ImmKind) : kindOfBits (kindBits k) = some k := by cases k <;> rfl
@[simp] theorem opOfBits_opBits (o : BinOp) : opOfBits (opBits o) = o := by cases o <;> rfl
@[simp] theorem spaceOfBits_spaceBits (s : Space) : spaceOfBits (spaceBits s) = s := by cases s <;> rfl

@[simp] theorem widthOfBits_ofNat (n : Fin 33) : widthOfBits (BitVec.ofNat 6 n) = some n := by
  obtain ⟨n, hn⟩ := n
  have h : n % 64 = n := by omega
  simp [widthOfBits, h, hn]

@[simp] theorem packOperand_reg (r : RegIdx) : packOperand (.reg r) = some { emptySlot with v := true, rv := true, r := r } := rfl

@[simp] theorem packOperand_imm (x : BitVec 32) (width : Fin 33) (kind : ImmKind) :
    packOperand (.imm x width kind) =
      some { emptySlot with v := true, iv := true, imm := x, iw := BitVec.ofNat 6 width, ik := kindBits kind } := rfl

@[simp] theorem packOperand_ref (inner : Operand) (space : Space) (iprel : Bool) :
    packOperand (.ref inner space iprel) =
      (packInner inner).map (fun s => { s with ref := true, space := spaceBits space, iprel := iprel }) := rfl

end Sys2Proof.Machine
end

