-- ==== Sys2Proof/Tests/Slice0.lean ====
section
/-! SUPPORT. Tests against the vectors of spec/95_test_vectors.md (their numbers stand in the theorems' comments), smoke
tests of well-formedness, decoding of words written out from the spec's encodings, and a witness for the hypotheses of each
statement that has some. -/

namespace Sys2Proof.Tests

open Sys2Proof.Machine

/-! ### An admissible table with a row for every decode rule -/

/-- The decode rules of the open rows of `demoTable`. -/
def demoRule (k : Opcode) : DecodeRule :=
  match k.toNat with
  | 0x0E => .DR_R | 0x10 => .DR_RR | 0x11 => .DR_RRR | 0x12 => .DR_RI21 | 0x13 => .DR_RI16 | 0x14 => .DR_RI8
  | 0x15 => .DR_RI21S11 | 0x17 => .DR_LDG | 0x18 => .DR_LDBD_G | 0x19 => .DR_LDBD_C | 0x1A => .DR_LDBD_U
  | 0x1B => .DR_LDBD_S | 0x1D => .DR_BRC | 0x1E => .DR_JMP | 0x1F => .DR_CALL | 0x20 => .DR_RETN | 0x21 => .DR_LDLOC
  | 0x22 => .DR_MKSTR | 0x23 => .DR_PUSH | 0x24 => .DR_PUSHLOC | 0x25 => .DR_POP | 0x26 => .DR_STORE | 0x27 => .DR_DECREF
  | 0x28 => .DR_MOV | 0x29 => .DR_OPEN
  | _ => .DR_NONE

/-- An admissible table: `jz` 0x01, `jnz` 0x02, `retn` 0x03, `ld_local32b` 0x04, `mkstr` 0x05, `push` 0x06, `push_local32`
0x08, `pop` 0x09, `st_mem8` 0x0A, `st_gc` 0x0B, `decref` 0x0C, `mkgc` 0x0D, and the rows of `demoRule`. -/
def demoTable : Params where
  lastOpc := 0x36
  opcOf := Unnumbered.someOpcode
  useChg := fun _ => ⟨false, false, false, false, false, false⟩
  row := fun k => ⟨text "row", demoRule k, false, false, false⟩
  openCount := fun _ => 1
  openOperand := fun k _ w => if k = 0x29 then .ref (.ref (.reg 1) .code false) .stack false else .reg (extractFields w).ra
  lastOpc_ge := by decide
  opcOf_le := by intro m; cases m <;> decide
  opcOf_unpinned := by intro m; cases m <;> decide
  opcOf_injective := by intro m n; cases m <;> cases n <;> decide
  row_mnemonic_lineChar := fun _ => show (text "row").all lineChar = true by decide

/-- The operands of a word under `demoTable`. -/
def demoOperands (w : Word) : List Operand := (decodeInstruction demoTable w).operands

/-- The line of a word under `demoTable`. -/
def demoLine (w : Word) : Text := render (decodeInstruction demoTable w)

/-- The reset state with bytes in the host's stream. -/
def withStream (bytes : List Byte) : State := { State.reset with stream := bytes }

/-- The decoded instruction a step leaves. -/
def stepDecoded (s : State) : Option DecodedInstruction :=
  match step s with
  | .next t => some t.decoded
  | .fault _ => none
  | .refused _ => none

/-- The operands an instruction drives from reset. -/
def execOperands (i : Instr) : List Operand := (instrResult i).operands

/-- The listing after one step from bytes in the stream. -/
def stepListing (bytes : List Byte) : Option Text :=
  match step (withStream bytes) with
  | .next t => some t.listing
  | .fault _ => none
  | .refused _ => none

/-! ### Well-formedness refuses an opcode that is not that of such a row -/

theorem test_wf_refuses_row_forms_at_a_pinned_opcode :
    (Instr.drR 0x00 1).wf = false ∧ (Instr.drRR 0x07 1 2).wf = false ∧ (Instr.drRRR 0x00 1 2 3).wf = false ∧
    (Instr.drRI21 0x0F 1 5).wf = false ∧ (Instr.drRI16 0x16 1 5).wf = false ∧ (Instr.drRI8 0x30 1 5).wf = false ∧
    (Instr.drRI21S11 0x36 1 5).wf = false ∧ (Instr.drLDG 0x00 1 5).wf = false ∧ (Instr.drLDBDG 0x00 1 2 5).wf = false ∧
    (Instr.drLDBDC 0x00 1 2 5).wf = false ∧ (Instr.drLDBDU 0x00 1 2 5).wf = false ∧ (Instr.drLDBDS 0x00 1 2 5).wf = false ∧
    (Instr.row 0x36 5).wf = false ∧ (Instr.ud 0x36).wf = false := by decide

theorem test_wf_refuses_a_row_bound_to_another_rule :
    (Instr.drR 0x10 1).wfWith demoTable = false ∧ (Instr.drRR 0x0E 1 2).wfWith demoTable = false ∧
    (Instr.drRRR 0x12 1 2 3).wfWith demoTable = false ∧ (Instr.drRI21 0x13 1 5).wfWith demoTable = false ∧
    (Instr.drRI16 0x14 1 5).wfWith demoTable = false ∧ (Instr.drRI8 0x13 1 5).wfWith demoTable = false ∧
    (Instr.drRI21S11 0x12 1 5).wfWith demoTable = false ∧ (Instr.drLDG 0x22 1 5).wfWith demoTable = false ∧
    (Instr.drLDBDG 0x19 1 2 5).wfWith demoTable = false ∧ (Instr.drLDBDC 0x18 1 2 5).wfWith demoTable = false ∧
    (Instr.drLDBDU 0x1B 1 2 5).wfWith demoTable = false ∧ (Instr.drLDBDS 0x1A 1 2 5).wfWith demoTable = false := by decide

theorem test_wf_refuses_row_where_a_listed_form_or_nothing_stands :
    (Instr.row 0x0E 5).wfWith demoTable = false ∧ (Instr.row 0x01 5).wfWith demoTable = false ∧
    (Instr.row 0x37 5).wfWith demoTable = false ∧ (Instr.ud 0x0E).wfWith demoTable = false ∧
    (Instr.ud 0x01).wfWith demoTable = false := by decide

/-! ### Words written out bit by bit from the encodings of spec/opcode_table.json -/

theorem test_decode_numbered :
    decode 0b00000000001000100001100000000000 = .add 1 2 3 ∧ decode 0b00000011110111111110111111111111 = .add 30 31 29 ∧
    decode 0b00011111111000000000000000000001 = .jmp 1 ∧ decode 0b00111100000000000000000000001011 = .call 0 5 1 ∧
    decode 0b01011011110111110000000000000000 = .mov 30 31 0 ∧
    decode 0b11000000100000110000000000000010 = .stMem32 4 3 2 ∧
    decode 0b11011000000000000000000000000101 = .unk36 5 := by decide

theorem test_decode_named :
    decodeWith demoTable 0b00000100011000000000000000000001 = .jz 3 1 ∧
    decodeWith demoTable 0b00001000001111111111111111111111 = .jnz 1 0x1FFFFF ∧
    decodeWith demoTable 0b00001111111111111111111111111110 = .retn 0xFFFE ∧
    decodeWith demoTable 0b00010000100111110000000000001000 = .ldLocal32b 4 8 ∧
    decodeWith demoTable 0b00010100110000000000010000000000 = .mkstr 6 0x400 ∧
    decodeWith demoTable 0b00011011110000000001001000110100 = .push 30 0x1234 ∧
    decodeWith demoTable 0b00100000001000000000000000100000 = .pushLocal32 1 0x20 ∧
    decodeWith demoTable 0b00100100000000000000000000010010 = .pop 1 2 ∧
    decodeWith demoTable 0b00101000101001100000000000000010 = .stMem8 5 6 2 ∧
    decodeWith demoTable 0b00101111110001110000000001000100 = .stGc 30 7 0x44 ∧
    decodeWith demoTable 0b00110000011000000000000000010000 = .decref 3 0x10 ∧
    decodeWith demoTable 0b00110100000000000000000000000111 = .mkgc 7 := by decide

theorem test_decode_rows :
    decodeWith demoTable 0b00111000101111111111111111111111 = .drR 0x0E 5 ∧
    decodeWith demoTable 0b01000011110111111111111111111111 = .drRR 0x10 30 31 ∧
    decodeWith demoTable 0b01000100001000100001111111111111 = .drRRR 0x11 1 2 3 ∧
    decodeWith demoTable 0b01001000100111111111111111111111 = .drRI21 0x12 4 0x1FFFFF ∧
    decodeWith demoTable 0b01001100100111111111111111111110 = .drRI16 0x13 4 0xFFFE ∧
    decodeWith demoTable 0b01010000111000000001001011111111 = .drRI8 0x14 7 0xFF ∧
    decodeWith demoTable 0b01010100010000000000000000000001 = .drRI21S11 0x15 2 1 ∧
    decodeWith demoTable 0b01011100101000000001001000110100 = .drLDG 0x17 5 0x1234 ∧
    decodeWith demoTable 0b01100000001000100000000000010000 = .drLDBDG 0x18 1 2 0x10 ∧
    decodeWith demoTable 0b01100100001000100000000000010000 = .drLDBDC 0x19 1 2 0x10 ∧
    decodeWith demoTable 0b01101000001000100000000000010000 = .drLDBDU 0x1A 1 2 0x10 ∧
    decodeWith demoTable 0b01101100001111101111111111111111 = .drLDBDS 0x1B 1 30 0xFFFF ∧
    decodeWith demoTable 0b01110000000000000000000000001001 = .row 0x1C 9 ∧
    decodeWith demoTable 0b11011100000000000000000000001001 = .ud 0x37 := by decide

theorem test_encode_writes_unread_bits_zero :
    encode (.add 30 31 29) = 0x03DFE800 ∧ encode (.jmp 0x1FFFFF) = 0x1C1FFFFF ∧ encode (.call 3 0 1) = 0x3C600001 ∧
    encodeWith demoTable (.pushLocal32 31 0xFFFF) = 0x23E0FFFF ∧ encodeWith demoTable (.drRI8 0x14 7 0xFF) = 0x50E000FF ∧
    encodeWith demoTable (.ud 0x3F) = 0xFC000000 := by decide

theorem test_decodeTableWord_reads_a_row_and_refuses_33_bits :
    decodeTableWord 32 0x00221800 = some (.add 1 2 3) ∧ decodeTableWord 32 0x100000000 = none := by decide

theorem test_decodeBytes_is_little_endian :
    decodeBytes [0x08, 0x00, 0x3E, 0x58, 0xFF] = .ok (.mov 1 30 8, [0xFF]) ∧
    decodeBytes [0x08, 0x00, 0x3E] = .error .shortWord := by decide

/-! ### Extraction (vectors X1 to X6) and refusals -/

theorem test_extract_vectors :
    extract 0xDEADBEEF 0 32 = 0xDEADBEEF ∧ extract 0xDEADBEEF 0 0 = 0 ∧ extract 0xDEADBEEF 32 32 = 0 ∧
    extract 0xDEADBEEF 17 17 = 0 ∧ extract 0xDEADBEEF 26 32 = 0x37 ∧ extract 0xDEADBEEF 21 26 = 0x15 := by decide

theorem test_extractFields_vector :
    extractFields 0xDEADBEEF =
      ⟨0x37, 0x15, 0x0D, 0x17, 0x0DBEEF, 0xBEEF, 0xEF, 0x6DF77, 1, 0x2ADBEE, 0xF⟩ := by decide

/-! ### Operands, one vector for each row of the opcode table -/

theorem test_register_form_vectors :
    demoOperands 0x3BBFFFFF = [.reg 29] ∧ demoOperands 0x43DFFFFF = [.reg 30, .reg 31] ∧
    demoOperands 0x44221FFF = [.reg 1, .reg 2, .reg 3] ∧ demoOperands 0x00221800 = [.reg 1, .reg 2, .reg 3] ∧
    demoOperands 0x489FFFFF = [.reg 4, .imm 0x1FFFFF 21 .const] ∧
    demoOperands 0x4C9FFFFF = [.reg 4, .imm 0xFFFF 16 .const] ∧
    demoOperands 0x50E012FF = [.reg 7, .imm 0xFF 8 .const] ∧
    demoOperands 0x545FFFFF = [.reg 2, .imm 0xFFFFF800 32 .const] := by decide

/-- B1, B4, B6, B11 to B13, B15. -/
theorem test_control_transfer_vectors :
    demoOperands 0x04600001 = [.reg 3, .ref (.imm 4 23 .const) .code true] ∧
    demoOperands 0x083FFFFF = [.reg 1, .ref (.imm 0x7FFFFC 23 .const) .code true] ∧
    demoOperands 0x1FFFFFFF = [.ref (.imm 0x7FFFFC 21 .const) .code true] ∧
    demoOperands 0x3C1FFFFF = [.imm 0xFFFFF 20 .const, .imm 1 1 .constBool] ∧
    demoOperands 0x3C7FFFFE = [.reg 3, .imm 0 1 .constBool] ∧ demoOperands 0x3FE00001 = [.reg 31, .imm 1 1 .constBool] ∧
    demoOperands 0x0FFFFFFF = [.imm 0xFFFF 16 .const] := by decide

/-- L1 to L5, L8, L9. -/
theorem test_load_vectors :
    demoOperands 0x5CA01234 = [.reg 5, .ref (.imm 0x1234 21 .const) .global false] ∧
    demoOperands 0x60220010 = [.reg 1, .ref (.expr (.reg 2) .add (.imm 0x10 16 .const)) .global false] ∧
    demoOperands 0x64220010 = [.reg 1, .ref (.expr (.reg 2) .add (.imm 0x10 16 .const)) .code false] ∧
    demoOperands 0x68220010 = [.reg 1, .ref (.expr (.reg 2) .add (.imm 0x10 16 .const)) .unified false] ∧
    demoOperands 0x6C3EFFFF = [.reg 1, .ref (.expr (.reg 30) .add (.imm 0xFFFF 16 .const)) .stack false] ∧
    demoOperands 0x109F0008 = [.reg 4, .ref (.expr (.reg 30) .add (.imm 8 16 .const)) .stack false] ∧
    demoOperands 0x14C00400 = [.reg 6, .ref (.imm 0x400 21 .const) .global false] := by decide

/-- K1, K2, K7, K10. -/
theorem test_stack_vectors :
    demoOperands 0x1BC01234 = [.imm 0x1234 21 .const] ∧ demoOperands 0x187FFFFF = [.reg 3] ∧
    demoOperands 0x23FFFFFF =
      [.imm 31 5 .constBool, .ref (.expr (.reg 30) .add (.imm 0xFFFF 16 .const)) .stack false] ∧
    demoOperands 0x24200000 = [.imm 0x20000 22 .const, .imm 0 4 .const] := by decide

/-- M2, M4 to M7, M9, M14, M15. -/
theorem test_store_vectors :
    demoOperands 0xC3DF0010 = [.ref (.expr (.reg 30) .add (.imm 0x10 16 .const)) .stack false, .imm 0 32 .const] ∧
    demoOperands 0xC3C30001 = [.ref (.expr (.reg 30) .add (.imm 1 16 .const)) .stack false, .reg 3] ∧
    demoOperands 0xC0830000 = [.ref (.reg 4) .global false, .reg 3] ∧
    demoOperands 0xC0830001 = [.ref (.reg 4) .stack false, .reg 3] ∧
    demoOperands 0xC0830002 = [.ref (.reg 4) .unified false, .reg 3] ∧
    demoOperands 0xC09F0000 = [.ref (.reg 4) .global false, .imm 0 32 .const] ∧
    demoOperands 0x28A60002 = [.ref (.reg 5) .unified false, .reg 6] ∧
    demoOperands 0x2FC70044 = [.ref (.expr (.reg 30) .add (.imm 0x44 16 .const)) .stack false, .reg 7] := by decide

/-- M17, M19, M20, M21, M24. -/
theorem test_decref_and_mov_vectors :
    demoOperands 0x30600010 =
      [.ref (.expr (.reg 30) .add (.expr (.reg 3) .add (.imm 0x10 21 .const))) .stack false] ∧
    demoOperands 0x33FFFFFF =
      [.ref (.expr (.reg 30) .add (.expr (.reg 31) .add (.imm 0x1FFFFF 21 .const))) .stack false] ∧
    demoOperands 0x33C00000 = [.ref (.expr (.reg 30) .add (.imm 0 21 .const)) .stack false] ∧
    demoOperands 0x58220000 = [.reg 1, .reg 2] ∧
    demoOperands 0x5821FFFF = [.reg 1, .expr (.reg 1) .add (.imm 0xFFFF 16 .const)] := by decide

/-- F1, F3, F4, F5. -/
theorem test_fallback_vectors :
    demoLine 0xFFFFFFFF = text "ud_3F            " ∧ demoLine 0xEBADF00D = text "ud_3A            " ∧
    (decodeInstruction demoTable 0xDC000000).mnemonic = text "ud_37" ∧ (decodeInstruction demoTable 0xDC000000).hit = false ∧
    (decodeInstruction demoTable 0xD8000000).mnemonic = text "unk_36" ∧ (decodeInstruction demoTable 0xD8000000).hit = true := by
  decide

/-! ### Meanings: one step on a small state -/

theorem test_exec_drives_operands :
    execOperands (.call 0 5 1) = [.imm 5 20 .const, .imm 1 1 .constBool] ∧
    execOperands (.stMem32 31 31 1) = [.ref (.reg 31) .stack false, .imm 0 32 .const] ∧
    execOperands (.push 30 0x1234) = [.imm 0x1234 21 .const] ∧ execOperands (.mov 1 2 0) = [.reg 1, .reg 2] ∧
    execOperands (.drRI21S11 0x15 2 1) = [.reg 2, .imm 0x800 32 .const] ∧ execOperands (.ud 0x3F) = [] := by decide

theorem test_step_presents_the_next_word :
    (stepDecoded (withStream [0x0B, 0, 0, 0x3C, 0xAA])).map (fun d => (d.mnemonic, d.operands)) =
      some (text "call", [.imm 5 20 .const, .imm 1 1 .constBool]) := by decide

theorem test_step_writes_one_line : stepListing [0x08, 0x00, 0x3E, 0x58] = some (text "mov              r1, bp+#08h\n") := by
  decide

theorem test_step_without_a_whole_word_writes_nothing : stepListing [0x08, 0x00, 0x3E] = some [] := by decide

theorem test_withFetchWord_runs_the_placed_word :
    (stepDecoded (State.reset.withFetchWord 32 0xC0830002)).map (fun d => (d.mnemonic, d.operands)) =
      some (text "st_mem32", [.ref (.reg 4) .unified false, .reg 3]) := by decide

/-- S5, Q1. -/
theorem test_reset_shows_the_word_zero :
    State.reset.line = render (decodeInstruction Config.params 0) ∧
    State.reset.ports.op2O = (portsOf 0 (decodeInstruction Config.params 0)).op2O := by decide

/-! ### Ports (vectors Q2 to Q12) -/

/-- The operand ports of a word under `demoTable`. -/
def demoPorts (w : Word) : List (BitVec 55) :=
  let p := portsOf w (decodeInstruction demoTable w)
  [p.op0O, p.op1O, p.op2O]

theorem test_port_vectors :
    demoPorts 0x00221800 = [0x40420000000000, 0x40440000000000, 0x40460000000000] ∧
    demoPorts 0x1C000001 = [0x64011500000004, 0, 0] ∧ demoPorts 0x3C00000B = [0x40011400000005, 0x40014100000001, 0] ∧
    demoPorts 0x58220010 = [0x40420000000000, 0x40451000000010, 0] ∧
    demoPorts 0xC3DF0010 = [0x787D1000000010, 0x40012000000000, 0] ∧
    demoPorts 0xC0830000 = [0x68480000000000, 0x40460000000000, 0] ∧ demoPorts 0xFFFFFFFF = [0, 0, 0] ∧
    demoPorts 0x30600010 = [0x7A471500000010, 0, 0] ∧ demoPorts 0x33C00010 = [0x787D1500000010, 0, 0] := by decide

/-! ### Lines (vectors T1 to T12 and the lines of S5 to S9) -/

theorem test_renderer_vectors :
    renderOperand (.imm 0x1400 32 .fixed) = text "2.1024" ∧ renderOperand (.imm 0x7FF 32 .fixed) = text "0.2047" ∧
    renderOperand (.expr (.reg 1) .sub (.imm 4 16 .const)) = text "r1-#04h" ∧
    renderOperand (.expr (.reg 1) .shl (.imm 2 8 .const)) = text "r1<<#02h" ∧
    renderOperand (.expr (.reg 1) .shr (.reg 2)) = text "r1>>r2" ∧
    renderOperand (.ref (.expr (.reg 1) .add (.imm 4 16 .const)) .code true) = text "c::[+r1+#04h]" ∧
    renderOperand (.imm 2 5 .constBool) = text "true" ∧ renderOperand (.imm 0xABCDE 21 .const) = text "#ABCDEh" ∧
    renderLine (text "a_mnemonic_of_20_chr") [.reg 1] = text "a_mnemonic_of_20_chr r1" := by decide

theorem test_line_vectors :
    demoLine 0x00000000 = text "add              r0, r0, r0" ∧ demoLine 0x1C000001 = text "jmp              c::[+#04h]" ∧
    demoLine 0x58220010 = text "mov              r1, r2+#10h" ∧ demoLine 0x3C00000B = text "call             #05h, true" ∧
    demoLine 0xC3DF0010 = text "st_mem32         s::[bp+#10h], #00h" ∧
    demoLine 0x083FFFFF = text "jnz              r1, c::[+#7FFFFCh]" := by decide

/-- R224: a line without operands is 17 bytes, here `ud_3F` and twelve spaces. -/
theorem test_asciiBytes_of_a_line :
    asciiBytes (demoLine 0xFFFFFFFF) = [0x75, 0x64, 0x5F, 0x33, 0x46] ++ List.replicate 12 0x20 := by decide

/-- P1. -/
theorem test_disassemble_program_P1 :
    disassemble Config.params
        [0x00, 0x00, 0xDF, 0x5B, 0x08, 0x00, 0x3E, 0x58, 0x00, 0x10, 0x61, 0x00, 0x10, 0x00, 0xC3, 0xC3] =
      text "mov              bp, sp\n" ++ text "mov              r1, bp+#08h\n" ++ text "add              r3, r1, r2\n" ++
        text "st_mem32         s::[bp+#10h], r3\n" := by decide

/-- P2, the word at offset 8. -/
theorem test_successor_vector :
    successors literalReading 8 (decodeInstruction demoTable 0x1C000002) = [16] := by decide

/-! ### Witnesses: concrete values that meet the hypotheses of each statement that has some -/

/-- The entry of a word under `demoTable` is bound to a decode rule. -/
def demoBound (w : Word) (rule : DecodeRule) : Bool :=
  (tableEntry demoTable (extractFields w).opc).any (fun e => e.rule == rule)

/-- `ExtractYieldsTheBits`, the ends of the range. -/
theorem witness_ExtractYieldsTheBits :
    (0 ≤ 0 ∧ 0 ≤ 32) ∧ (32 ≤ 32 ∧ 32 ≤ 32) ∧ extract 0xDEADBEEF 31 32 = 1 ∧ extract 0xDEADBEEF 0 1 = 1 := by decide

/-- `BadNumbersAndRangesAreRefused`, the values next to the limits. -/
theorem witness_BadNumbersAndRangesAreRefused :
    wordOfNat (2 ^ 32 - 1) = some 0xFFFFFFFF ∧ wordOfNat (2 ^ 32) = none ∧
    (decodeNat demoTable (2 ^ 32)).toOption = none ∧ (extractChecked 0xDEADBEEF 32 32).toOption = some 0 ∧
    (extractChecked 0xDEADBEEF 0 33).toOption = none ∧ (extractChecked 0xDEADBEEF 5 4).toOption = none := by decide

/-- `DecodeOfEncodeReturnsInstruction` and the row clauses: each carried opcode is admitted somewhere. -/
theorem witness_DecodeOfEncodeReturnsInstruction :
    (Instr.drR 0x0E 1).wfWith demoTable ∧ (Instr.drRR 0x10 1 2).wfWith demoTable ∧ (Instr.drRRR 0x11 1 2 3).wfWith demoTable ∧
    (Instr.drRI21 0x12 1 5).wfWith demoTable ∧ (Instr.drRI16 0x13 1 5).wfWith demoTable ∧
    (Instr.drRI8 0x14 1 5).wfWith demoTable ∧ (Instr.drRI21S11 0x15 1 5).wfWith demoTable ∧
    (Instr.drLDG 0x17 1 5).wfWith demoTable ∧ (Instr.drLDBDG 0x18 1 2 5).wfWith demoTable ∧
    (Instr.drLDBDC 0x19 1 2 5).wfWith demoTable ∧ (Instr.drLDBDU 0x1A 1 2 5).wfWith demoTable ∧
    (Instr.drLDBDS 0x1B 1 2 5).wfWith demoTable ∧ (Instr.row 0x1C 5).wfWith demoTable ∧ (Instr.ud 0x37).wfWith demoTable ∧
    (Instr.mkgc 7).wfWith demoTable := by decide

/-- `UnreadBitsHaveNoEffect`: different words of `jmp`, of indirect `call`, of `push` of a register, and without an entry. -/
theorem witness_UnreadBitsHaveNoEffect :
    demoBound 0x1FFFFFFF .DR_JMP ∧ low26Of 0x1FFFFFFF &&& readMask .DR_JMP 0x1FFFFFFF =
      low26Of 0x1C1FFFFF &&& readMask .DR_JMP 0x1FFFFFFF ∧
    demoBound 0x3C7FFFFE .DR_CALL ∧ low26Of 0x3C7FFFFE &&& readMask .DR_CALL 0x3C7FFFFE =
      low26Of 0x3C600000 &&& readMask .DR_CALL 0x3C7FFFFE ∧
    demoBound 0x187FFFFF .DR_PUSH ∧ low26Of 0x187FFFFF &&& readMask .DR_PUSH 0x187FFFFF =
      low26Of 0x18600000 &&& readMask .DR_PUSH 0x187FFFFF ∧
    (tableEntry demoTable (extractFields 0xFFFFFFFF).opc).isNone ∧ extract 0xFFFFFFFF 26 32 = extract 0xFC000000 26 32 := by
  decide

/-- `StreamWordsAreLittleEndian`, on both sides of four bytes. -/
theorem witness_StreamWordsAreLittleEndian :
    takeWord [1, 2, 3] = none ∧ takeWord [1, 2, 3, 4] = some (0x04030201, []) := by decide

/-- `TableIsContiguous`, on both sides of `LAST_OPC`. -/
theorem witness_TableIsContiguous :
    (tableEntry demoTable 0x36).isSome ∧ (tableEntry demoTable 0x37).isNone ∧
    (tableEntry Params.someAdmissible 0x35).isSome := by decide

/-- `RegisterFormRules`, `LoadRules` and `DecidedShapeRules`: words whose entry is bound to each rule. -/
theorem witness_RegisterFormRules_and_LoadRules :
    demoBound 0x38000000 .DR_R ∧ demoBound 0x40000000 .DR_RR ∧ demoBound 0x00221800 .DR_RRR ∧ demoBound 0x48000000 .DR_RI21 ∧
    demoBound 0x4C000000 .DR_RI16 ∧ demoBound 0x50000000 .DR_RI8 ∧ demoBound 0x545FFFFF .DR_RI21S11 ∧
    demoBound 0x5CA01234 .DR_LDG ∧ demoBound 0x60220010 .DR_LDBD_G ∧ demoBound 0x64220010 .DR_LDBD_C ∧
    demoBound 0x68220010 .DR_LDBD_U ∧ demoBound 0x6C3EFFFF .DR_LDBD_S ∧ demoBound 0x109F0008 .DR_LDLOC ∧
    demoBound 0x14C00400 .DR_MKSTR := by decide

/-- `ControlTransferRules` (and `jmp` of `DecidedShapeRules`): both modes of `call` at register fields 0 and 1. -/
theorem witness_ControlTransferRules :
    demoBound 0x04600001 .DR_BRC ∧ demoBound 0x1C000001 .DR_JMP ∧ demoBound 0x0FFFFFFF .DR_RETN ∧
    demoBound 0x3C1FFFFF .DR_CALL ∧ extract 0x3C1FFFFF 21 26 = 0 ∧
    demoBound 0x3C200000 .DR_CALL ∧ extract 0x3C200000 21 26 ≠ 0 := by decide

/-- `StackRules` (and `push_local32` of `DecidedShapeRules`): `push` at register fields 30 and 29. -/
theorem witness_StackRules :
    demoBound 0x1BC01234 .DR_PUSH ∧ extract 0x1BC01234 21 26 = 30 ∧
    demoBound 0x1BA00000 .DR_PUSH ∧ extract 0x1BA00000 21 26 ≠ 30 ∧ demoBound 0x23FFFFFF .DR_PUSHLOC ∧
    demoBound 0x24200000 .DR_POP := by decide

/-- `StoreRule`: the four destinations and the two values, at immediates 0, 1 and 2 and register fields 30 and 31. -/
theorem witness_StoreRule :
    (demoBound 0xC3C30001 .DR_STORE ∧ extract 0xC3C30001 21 26 = 30 ∧ extract 0xC3C30001 16 21 ≠ 31) ∧
    (demoBound 0xC09F0000 .DR_STORE ∧ extract 0xC09F0000 21 26 ≠ 30 ∧ extract 0xC09F0000 0 16 = 0 ∧
      extract 0xC09F0000 16 21 = 31) ∧
    (demoBound 0xC0830001 .DR_STORE ∧ extract 0xC0830001 21 26 ≠ 30 ∧ extract 0xC0830001 0 16 = 1 ∧
      extract 0xC0830001 16 21 ≠ 31) ∧
    (demoBound 0xC3FE0002 .DR_STORE ∧ extract 0xC3FE0002 21 26 ≠ 30 ∧ 2 ≤ extract 0xC3FE0002 0 16 ∧
      extract 0xC3FE0002 16 21 ≠ 31) := by decide

/-- `MovRule` and `DecidedShapeRules`: both modes at the values next to the tests. -/
theorem witness_MovRule_and_DecidedShapeRules :
    demoBound 0x33C00000 .DR_DECREF ∧ extract 0x33C00000 21 26 = 30 ∧ demoBound 0x33E00000 .DR_DECREF ∧
    extract 0x33E00000 21 26 ≠ 30 ∧ demoBound 0x58220000 .DR_MOV ∧ extract 0x58220000 0 16 = 0 ∧
    demoBound 0x58000001 .DR_MOV ∧ extract 0x58000001 0 16 ≠ 0 := by decide

/-- `UnknownOpcodeFallsBack`, `FlagsPortIsTheTableColumn`, `TestableProperties`: an opcode without an entry, next to one with. -/
theorem witness_UnknownOpcodeFallsBack :
    (tableEntry demoTable (extractFields 0xDC000000).opc).isNone ∧ (tableEntry demoTable (extractFields 0xFFFFFFFF).opc).isNone ∧
    (tableEntry demoTable (extractFields 0xDBFFFFFF).opc).isSome := by decide

/-- `OperandCountIsFixedByTheRule` and `OutputsDependOnTheOpcodeAlone`: two words of one opcode in different modes. -/
theorem witness_OutputsDependOnTheOpcodeAlone :
    extract 0x3C1FFFFF 26 32 = extract 0x3C7FFFFE 26 32 ∧
    (tableEntry demoTable (extractFields 0x3C1FFFFF).opc).any (fun e => e.rule != .DR_OPEN) := by decide

/-- `OnlyBranchRulesAreIpRelative`, `CataloguedRulesUseAddOnly`, `CataloguedOperandsArePackable`, `OperandTextLengthBound`. -/
theorem witness_catalogued_operand :
    (.reg 3 : Operand) ∈ ruleOperands demoTable .DR_BRC 0x04600001 ∧
    (.ref (.imm 4 23 .const) .code true : Operand) ∈ ruleOperands demoTable .DR_BRC 0x04600001 := by decide

/-- `PackedOperandsUnpack`: an operand with a packed form, and one without. -/
theorem witness_PackedOperandsUnpack :
    packOperand (.ref (.expr (.reg 30) .add (.expr (.reg 3) .add (.imm 0x10 21 .const))) .stack false) =
      some (slotOfBits 0x7A471500000010) ∧
    packOperand (.ref (.ref (.reg 1) .code false) .stack false) = none := by decide

/-- `SlotFieldsRoundTrip`: a slot whose fields differ from one another, at the ends of their ranges. -/
theorem witness_SlotFieldsRoundTrip :
    (Slot.bits ⟨0xFFFFFFFF, 32, 2, true, 30, false, 3, true, false, 1, true, false⟩).toNat =
      0xFFFFFFFF + 32 * 2 ^ 32 + 2 * 2 ^ 38 + 2 ^ 40 + 30 * 2 ^ 41 + 3 * 2 ^ 47 + 2 ^ 49 + 2 ^ 51 + 2 ^ 53 := by decide

/-- `SelectorComputesTheDecodeRules` and `SelectionDeliversTheOperands`: a rule with a row of the select table, one without. -/
theorem witness_SelectorComputesTheDecodeRules :
    (selectorPorts demoTable 0xC3DF0010).isSome ∧ (selectorPorts demoTable 0xDC000000).isSome ∧
    (selectorPorts demoTable 0xA4000000).isNone ∧ demoBound 0xA4000000 .DR_OPEN ∧
    (select .DR_STORE (extractFields 0xC3DF0010).modes).isSome := by decide

/-- `CallAndReturnComplete`, `StackInstructionsComplete`, `DecrefAndMovComplete`: the values next to the modes. -/
theorem witness_modes_of_completion :
    (1 : RegIdx) ≠ 0 ∧ (29 : RegIdx) ≠ 30 ∧ (31 : RegIdx) ≠ 30 ∧ (1 : BitVec 16) ≠ 0 := by decide

/-- `StepRunsTheDecodedInstruction`: a word of `add` in the stream, and a stream with no whole word. -/
theorem witness_StepRunsTheDecodedInstruction :
    (withStream [0x00, 0x18, 0x22, 0x00]).stream = 0x00 :: 0x18 :: 0x22 :: 0x00 :: [] ∧
    decode (wordOfBytes 0x00 0x18 0x22 0x00) = .add 1 2 3 ∧ (Instr.add 1 2 3).wf = true ∧
    (∃ t, exec (.add 1 2 3)
      { withStream [0x00, 0x18, 0x22, 0x00] with
        wordI := wordOfBytes 0x00 0x18 0x22 0x00, consumed := [] ++ [0x00, 0x18, 0x22, 0x00], stream := [] } = .next t) ∧
    (withStream [0, 0, 0]).stream.length < 4 ∧ decode State.reset.wordI = .add 0 0 0 ∧ (Instr.add 0 0 0).wf = true :=
  ⟨rfl, by decide, by decide, ⟨_, rfl⟩, by decide, by decide, by decide⟩

/-- `EveryStepGivesTheBlockFunction`, `EveryStepGoesOn`: a step with a word and a step without. -/
theorem witness_EveryStepGivesTheBlockFunction :
    (∃ t, step (withStream [0x00, 0x18, 0x22, 0x00]) = .next t) ∧ ∃ t, step State.reset = .next t :=
  ⟨⟨_, step_of_takeWord (w := 0x00221800) (rest := []) (by decide)⟩, ⟨_, step_of_no_word (by decide)⟩⟩

/-- `NumberedInstructionsAtAStep`: a stream with a word of each numbered opcode. -/
theorem witness_NumberedInstructionsAtAStep :
    takeWord (withStream (bytesOfWord 0x00221800)).stream = some (0x00221800, []) ∧ extract 0x00221800 26 32 = 0x00 ∧
    takeWord (withStream (bytesOfWord 0x1C000001)).stream = some (0x1C000001, []) ∧ extract 0x1C000001 26 32 = 0x07 ∧
    takeWord (withStream (bytesOfWord 0x3C00000B)).stream = some (0x3C00000B, []) ∧ extract 0x3C00000B 26 32 = 0x0F ∧
    takeWord (withStream (bytesOfWord 0x58220010)).stream = some (0x58220010, []) ∧ extract 0x58220010 26 32 = 0x16 ∧
    takeWord (withStream (bytesOfWord 0xC3DF0010)).stream = some (0xC3DF0010, []) ∧ extract 0xC3DF0010 26 32 = 0x30 ∧
    takeWord (withStream (bytesOfWord 0xD8000000)).stream = some (0xD8000000, []) ∧ extract 0xD8000000 26 32 = 0x36 := by decide

/-- `NamedInstructionsAtAStep` and `JumpTargetOperands`: a stream with a word of each named opcode of the block's own table. -/
theorem witness_NamedInstructionsAtAStep (m : Unnumbered) :
    takeWord (withStream (bytesOfWord (joinWord (Config.params.opcOf m) 5))).stream =
      some (joinWord (Config.params.opcOf m) 5, []) ∧
    extract (joinWord (Config.params.opcOf m) 5) 26 32 = (Config.params.opcOf m).toNat := by
  refine ⟨?_, by rw [extract_opc, fields_joinWord_opc]⟩
  have h := takeWord_bytesOfWord (joinWord (Config.params.opcOf m) 5) []
  rwa [List.append_nil] at h

/-- `OutputsForgetThePast`: two states with one next word and different pasts. -/
theorem witness_OutputsForgetThePast :
    takeWord (withStream [0x00, 0x18, 0x22, 0x00]).stream = some (0x00221800, []) ∧
    takeWord ({ withStream [0x00, 0x18, 0x22, 0x00, 7] with wordI := 1, consumed := [9] } : State).stream =
      some (0x00221800, [7]) := by decide

/-- `DecodingAgainChangesNothing`: a state that shows `add r1, r2, r3` with three bytes left in the stream. -/
theorem witness_DecodingAgainChangesNothing :
    ∃ s : State, s.wordI = 0x00221800 ∧ OutputsFollowInput s ∧ s.stream.length < 4 :=
  ⟨emit (decodeInstruction Config.params 0x00221800) { withStream [1, 2, 3] with wordI := 0x00221800 }, rfl,
    ⟨rfl, rfl, rfl⟩, by simp [withStream]⟩

/-- `EveryStepKeepsTheListing`: a state with a whole word in its stream and a listing of what was presented. -/
theorem witness_EveryStepKeepsTheListing :
    (withStream [0x00, 0x18, 0x22, 0x00]).consumed.length % 4 = 0 ∧
    (withStream [0x00, 0x18, 0x22, 0x00]).listing =
      disassemble Config.params (withStream [0x00, 0x18, 0x22, 0x00]).consumed ∧
    ∃ t, step (withStream [0x00, 0x18, 0x22, 0x00]) = .next t :=
  ⟨by decide, rfl, ⟨_, step_of_takeWord (w := 0x00221800) (rest := []) (by decide)⟩⟩

/-- `StreamRunsToItsListing`: a stream of two words, and the empty one. -/
theorem witness_StreamRunsToItsListing :
    (withStream [0x00, 0x18, 0x22, 0x00, 0x01, 0x00, 0x00, 0x1C]).stream = [0x00221800, 0x1C000001].flatMap bytesOfWord ∧
    State.reset.stream = [].flatMap bytesOfWord := by decide

/-- `JumpTargetOperands` and `SuccessorsOfAnInstruction`: a word for each clause. -/
theorem witness_SuccessorsOfAnInstruction :
    extract 0x04600001 26 32 = (demoTable.opcOf .jz).toNat ∧ extract 0x083FFFFF 26 32 = (demoTable.opcOf .jnz).toNat ∧
    extract 0x1C000001 26 32 = 0x07 ∧ extract 0x0C000000 26 32 = (demoTable.opcOf .retn).toNat ∧
    extract 0x3C1FFFFF 26 32 = 0x0F ∧ (decodeInstruction demoTable 0x00221800).flags.jump = false ∧
    (decodeInstruction demoTable 0x00221800).flags.noFall = false ∧
    (tableEntry demoTable (extractFields 0xDC000000).opc).isNone := by decide

/-- `LinesAreAsciiWithoutBreaks`: a character of a line, and a mnemonic of line characters. -/
theorem witness_LinesAreAsciiWithoutBreaks :
    'j' ∈ render (decodeInstruction Config.params 0x1C000001) ∧
    ∀ c ∈ (decodeInstruction Config.params 0x1C000001).mnemonic, lineChar c = true :=
  ⟨.head _, List.all_eq_true.mp (by decide)⟩

end Sys2Proof.Tests
end

section
/-! Extraction, totality of decoding and stepping, and the bits a decode rule reads (spec/00_scope.md R8, R10, R11). -/

namespace Sys2Proof

/-! ### Extraction by R8's formula -/

/-- The mask of R8's formula cuts the shifted word to the range's width, for every range. -/
theorem extract_eq_div_mod (w : Word) (start stop : Nat) :
    extract w start stop = w.toNat / 2 ^ start % 2 ^ (stop - start) := by
  rw [extract, Nat.shiftRight_and_distrib, Nat.shiftLeft_shiftRight, Nat.and_comm, Nat.and_two_pow_sub_one_eq_mod,
    Nat.shiftRight_eq_div_pow]

theorem testBit_extract (w : Word) (start stop j : Nat) :
    (extract w start stop).testBit j = (decide (j < stop - start) && w.getLsbD (start + j)) := by
  rw [extract_eq_div_mod, Nat.testBit_mod_two_pow, Nat.testBit_div_two_pow, BitVec.testBit_toNat, Nat.add_comm j]

@[simp] theorem extract_self (w : Word) (n : Nat) : extract w n n = 0 := by
  rw [extract_eq_div_mod, Nat.sub_self, Nat.pow_zero, Nat.mod_one]

theorem extract_zero_32 (w : Word) : extract w 0 32 = w.toNat := by
  rw [extract_eq_div_mod, Nat.pow_zero, Nat.div_one, Nat.sub_zero, Nat.mod_eq_of_lt w.isLt]

/-- Settles O2. -/
theorem extractYieldsTheBits : Obligations.ExtractYieldsTheBits :=
  ⟨fun w start stop _ _ => ⟨extract_eq_div_mod w start stop, testBit_extract w start stop⟩, extract_self, extract_zero_32⟩

/-! ### The decoder by kind of slot, and well-formedness of what it gives -/

section Slots

variable {p : Params} {w : Word}

theorem decodeWith_of_unnamed {r : Row} (h : tableSlot p (extractFields w).opc = .unnamed r) :
    decodeWith p w = rowInstr r.rule w := by
  simp only [decodeWith, h]

theorem decodeWith_of_empty (h : tableSlot p (extractFields w).opc = .empty) :
    decodeWith p w = .ud (extractFields w).opc := by
  simp only [decodeWith, h]

/-- The instructions of pinned entries carry no opcode, so nothing about them can be ill-formed. -/
theorem wfWith_decodeWith_of_pinned {m : Pinned} (h : tableSlot p (extractFields w).opc = .pinned m) :
    (decodeWith p w).wfWith p = true := by
  cases m <;> simp only [decodeWith, h, Instr.wfWith]

/-- The instructions of named entries carry no opcode either. -/
theorem wfWith_decodeWith_of_unnumbered {m : Unnumbered} (h : tableSlot p (extractFields w).opc = .unnumbered m) :
    (decodeWith p w).wfWith p = true := by
  cases m <;> simp only [decodeWith, h, Instr.wfWith]

/-- A row's word becomes the constructor of the row's own rule, or `row` where the rule has none: what `rowBoundTo` and
`otherRow` ask of the opcode it carries. -/
theorem wfWith_rowInstr {r : Row} (h : tableSlot p (extractFields w).opc = .unnamed r) :
    (rowInstr r.rule w).wfWith p = true := by
  obtain ⟨mnemonic, rule, jump, call, noFall⟩ := r
  cases rule <;> simp [rowInstr, Instr.wfWith, rowBoundTo, otherRow, h, DecodeRule.hasTableRow]

end Slots

/-- Settles O6, by the four kinds of slot a table has. -/
theorem everyWordDecodesWellFormed : Obligations.EveryWordDecodesWellFormed := by
  intro p w
  cases h : tableSlot p (extractFields w).opc with
  | pinned m => exact wfWith_decodeWith_of_pinned h
  | unnumbered m => exact wfWith_decodeWith_of_unnumbered h
  | unnamed r =>
    rw [decodeWith_of_unnamed h]
    exact wfWith_rowInstr h
  | empty => simp [decodeWith_of_empty h, Instr.wfWith, h]

/-! ### Bits that a mask covers -/

theorem word_eq_of_opc_of_low26 {w w' : Word} (hopc : (extractFields w).opc = (extractFields w').opc)
    (hlow : low26Of w = low26Of w') : w = w' := by
  rw [← joinWord_opc_low26 w, hopc, hlow, joinWord_opc_low26]

theorem opc_eq_of_extract_eq {w w' : Word} (h : extract w 26 32 = extract w' 26 32) :
    (extractFields w).opc = (extractFields w').opc := by
  rw [extract_opc, extract_opc] at h
  exact BitVec.eq_of_toNat_eq h

theorem extractLsb'_low26Of (w : Word) {start len : Nat} (hle : start + len ≤ 26) :
    (low26Of w).extractLsb' start len = w.extractLsb' start len := by
  ext i hi
  have hlt : start + i < 26 := by omega
  simp [low26Of, hlt]

section Masked

variable {w w' : Word} {mask : BitVec 26} (h : low26Of w &&& mask = low26Of w' &&& mask)

include h

/-- Words that agree under a mask have the same bits in every range the mask covers. -/
theorem extractLsb'_eq_of_masked {start len : Nat} (hle : start + len ≤ 26)
    (hmask : mask.extractLsb' start len = BitVec.allOnes len) :
    w.extractLsb' start len = w'.extractLsb' start len := by
  have hslice := congrArg (BitVec.extractLsb' start len) h
  rwa [BitVec.extractLsb'_and, BitVec.extractLsb'_and, hmask, BitVec.and_allOnes, BitVec.and_allOnes,
    extractLsb'_low26Of w hle, extractLsb'_low26Of w' hle] at hslice

theorem ra_eq_of_masked (hmask : mask.extractLsb' 21 5 = BitVec.allOnes 5) :
    (extractFields w).ra = (extractFields w').ra :=
  extractLsb'_eq_of_masked h (by decide) hmask

theorem rb_eq_of_masked (hmask : mask.extractLsb' 16 5 = BitVec.allOnes 5) :
    (extractFields w).rb = (extractFields w').rb :=
  extractLsb'_eq_of_masked h (by decide) hmask

theorem rc_eq_of_masked (hmask : mask.extractLsb' 11 5 = BitVec.allOnes 5) :
    (extractFields w).rc = (extractFields w').rc :=
  extractLsb'_eq_of_masked h (by decide) hmask

theorem imm21_eq_of_masked (hmask : mask.extractLsb' 0 21 = BitVec.allOnes 21) :
    (extractFields w).imm21 = (extractFields w').imm21 :=
  extractLsb'_eq_of_masked h (by decide) hmask

theorem imm16_eq_of_masked (hmask : mask.extractLsb' 0 16 = BitVec.allOnes 16) :
    (extractFields w).imm16 = (extractFields w').imm16 :=
  extractLsb'_eq_of_masked h (by decide) hmask

theorem imm8_eq_of_masked (hmask : mask.extractLsb' 0 8 = BitVec.allOnes 8) :
    (extractFields w).imm8 = (extractFields w').imm8 :=
  extractLsb'_eq_of_masked h (by decide) hmask

theorem fidx20_eq_of_masked (hmask : mask.extractLsb' 1 20 = BitVec.allOnes 20) :
    (extractFields w).fidx20 = (extractFields w').fidx20 :=
  extractLsb'_eq_of_masked h (by decide) hmask

theorem flag0_eq_of_masked (hmask : mask.extractLsb' 0 1 = BitVec.allOnes 1) :
    (extractFields w).flag0 = (extractFields w').flag0 :=
  extractLsb'_eq_of_masked h (by decide) hmask

end Masked

/-- Words of one opcode that agree under the full mask are one word. -/
theorem word_eq_of_fully_masked {w w' : Word} (hopc : (extractFields w).opc = (extractFields w').opc)
    (h : low26Of w &&& 0x3FFFFFF = low26Of w' &&& 0x3FFFFFF) : w = w' := by
  have hones : (0x3FFFFFF : BitVec 26) = BitVec.allOnes 26 := rfl
  rw [hones, BitVec.and_allOnes, BitVec.and_allOnes] at h
  exact word_eq_of_opc_of_low26 hopc h

end Sys2Proof

namespace Sys2Proof.Machine

/-! ### The operands of a rule depend on the bits it reads -/

section Read

variable {w w' : Word}

/-- `DR_CALL` reads the register field always, and the function index in the direct form only (R136). -/
theorem drCALL_eq_of_read (h : low26Of w &&& readMask .DR_CALL w = low26Of w' &&& readMask .DR_CALL w) :
    drCALL (extractFields w).ra (extractFields w).fidx20 (extractFields w).flag0 =
      drCALL (extractFields w').ra (extractFields w').fidx20 (extractFields w').flag0 := by
  by_cases hra : (extractFields w).ra = 0
  · simp only [readMask, if_pos hra] at h
    rw [ra_eq_of_masked h rfl, fidx20_eq_of_masked h rfl, flag0_eq_of_masked h rfl]
  · simp only [readMask, if_neg hra] at h
    have hra' := ra_eq_of_masked h rfl
    rw [drCALL, drCALL, if_neg hra, if_neg (hra' ▸ hra), hra', flag0_eq_of_masked h rfl]

/-- `DR_PUSH` reads the register field always, and the immediate in the immediate form only (R170). -/
theorem drPUSH_eq_of_read (h : low26Of w &&& readMask .DR_PUSH w = low26Of w' &&& readMask .DR_PUSH w) :
    drPUSH (extractFields w).ra (extractFields w).imm21 = drPUSH (extractFields w').ra (extractFields w').imm21 := by
  by_cases hra : (extractFields w).ra = BP
  · simp only [readMask, if_pos hra] at h
    rw [ra_eq_of_masked h rfl, imm21_eq_of_masked h rfl]
  · simp only [readMask, if_neg hra] at h
    have hra' := ra_eq_of_masked h rfl
    rw [drPUSH, drPUSH, if_neg hra, if_neg (hra' ▸ hra), hra']

/-- Words of one opcode that agree on the bits a rule reads have the same operands by it. -/
theorem ruleOperands_eq_of_read (p : Params) (rule : DecodeRule) (hopc : (extractFields w).opc = (extractFields w').opc)
    (h : low26Of w &&& readMask rule w = low26Of w' &&& readMask rule w) :
    ruleOperands p rule w = ruleOperands p rule w' := by
  cases rule
  case DR_CALL => exact drCALL_eq_of_read h
  case DR_PUSH => exact drPUSH_eq_of_read h
  all_goals simp only [readMask] at h
  case DR_NONE => rfl
  case DR_R => simp only [ruleOperands, ra_eq_of_masked h rfl]
  case DR_RR => simp only [ruleOperands, ra_eq_of_masked h rfl, rb_eq_of_masked h rfl]
  case DR_RRR => simp only [ruleOperands, ra_eq_of_masked h rfl, rb_eq_of_masked h rfl, rc_eq_of_masked h rfl]
  case DR_RI16 | DR_LDLOC | DR_PUSHLOC =>
    simp only [ruleOperands, ra_eq_of_masked h rfl, imm16_eq_of_masked h rfl]
  case DR_RI8 => simp only [ruleOperands, ra_eq_of_masked h rfl, imm8_eq_of_masked h rfl]
  case DR_JMP => simp only [ruleOperands, imm21_eq_of_masked h rfl]
  case DR_RETN => simp only [ruleOperands, imm16_eq_of_masked h rfl]
  -- The other rules read every bit, so the two words are one.
  all_goals rw [word_eq_of_fully_masked hopc h]

end Read

/-! ### The block's result on a hit and on a miss (R202) -/

section Result

variable {p : Params} {w : Word}

theorem decodeInstruction_of_entry {e : Entry} (h : tableEntry p (extractFields w).opc = some e) :
    decodeInstruction p w = hitResult (extractFields w).opc e (ruleOperands p e.rule w) := by
  simp only [decodeInstruction, h]

theorem decodeInstruction_of_no_entry (h : tableEntry p (extractFields w).opc = none) :
    decodeInstruction p w = missResult (extractFields w).opc := by
  simp only [decodeInstruction, h]

end Result

/-- Settles O7. -/
theorem unreadBitsHaveNoEffect : Obligations.UnreadBitsHaveNoEffect := by
  intro p w w' hext hread
  have hopc := opc_eq_of_extract_eq hext
  cases h : tableEntry p (extractFields w).opc with
  | none =>
    have h' : tableEntry p (extractFields w').opc = none := hopc ▸ h
    rw [decodeInstruction_of_no_entry h, decodeInstruction_of_no_entry h', hopc]
  | some e =>
    have h' : tableEntry p (extractFields w').opc = some e := hopc ▸ h
    rw [decodeInstruction_of_entry h, decodeInstruction_of_entry h', ruleOperands_eq_of_read p e.rule hopc (hread e h),
      hopc]

/-! ### Every step goes on -/

/-- Settles O42: a step answers a next state whether or not a whole word is left in the stream. -/
theorem everyStepGoesOn : Obligations.EveryStepGoesOn := by
  intro s
  cases h : takeWord s.stream with
  | none => exact ⟨_, step_of_no_word h⟩
  | some taken => exact ⟨_, step_of_takeWord h⟩

end Sys2Proof.Machine
end

section
/-! The opcode table, decoding of encoded words, and packed operand slots (spec/10_state.md R28, R32 to R38;
spec/30_encoding.md R73). -/

namespace Sys2Proof

/-! ### The fields an encoded word gives back, format by format (R73)

A word is a sum of its fields at their places (`joinWord_toNat`, `lowR_toNat`, …) and a field a quotient and remainder of
the word (`ra_toNat`, …), so each equation is one of arithmetic. -/

section Formats

variable (k : Opcode) (ra rb rc : RegIdx)

@[simp] theorem fields_joinWord_lowR : (extractFields (joinWord k (lowR ra))).ra = ra := by
  apply BitVec.eq_of_toNat_eq
  rw [ra_toNat, joinWord_toNat, lowR_toNat]
  omega

@[simp] theorem fields_joinWord_lowRR :
    (extractFields (joinWord k (lowRR ra rb))).ra = ra ∧ (extractFields (joinWord k (lowRR ra rb))).rb = rb := by
  constructor <;> apply BitVec.eq_of_toNat_eq
  · rw [ra_toNat, joinWord_toNat, lowRR_toNat]; omega
  · rw [rb_toNat, joinWord_toNat, lowRR_toNat]; omega

@[simp] theorem fields_joinWord_lowRRR :
    (extractFields (joinWord k (lowRRR ra rb rc))).ra = ra ∧ (extractFields (joinWord k (lowRRR ra rb rc))).rb = rb ∧
      (extractFields (joinWord k (lowRRR ra rb rc))).rc = rc := by
  refine ⟨?_, ?_, ?_⟩ <;> apply BitVec.eq_of_toNat_eq
  · rw [ra_toNat, joinWord_toNat, lowRRR_toNat]; omega
  · rw [rb_toNat, joinWord_toNat, lowRRR_toNat]; omega
  · rw [rc_toNat, joinWord_toNat, lowRRR_toNat]; omega

@[simp] theorem fields_joinWord_lowRI21 (imm21 : BitVec 21) :
    (extractFields (joinWord k (lowRI21 ra imm21))).ra = ra ∧
      (extractFields (joinWord k (lowRI21 ra imm21))).imm21 = imm21 := by
  constructor <;> apply BitVec.eq_of_toNat_eq
  · rw [ra_toNat, joinWord_toNat, lowRI21_toNat]; omega
  · rw [imm21_toNat, joinWord_toNat, lowRI21_toNat]; omega

@[simp] theorem fields_joinWord_lowRI16 (imm16 : BitVec 16) :
    (extractFields (joinWord k (lowRI16 ra imm16))).ra = ra ∧
      (extractFields (joinWord k (lowRI16 ra imm16))).imm16 = imm16 := by
  constructor <;> apply BitVec.eq_of_toNat_eq
  · rw [ra_toNat, joinWord_toNat, lowRI16_toNat]; omega
  · rw [imm16_toNat, joinWord_toNat, lowRI16_toNat]; omega

@[simp] theorem fields_joinWord_lowRI8 (imm8 : BitVec 8) :
    (extractFields (joinWord k (lowRI8 ra imm8))).ra = ra ∧
      (extractFields (joinWord k (lowRI8 ra imm8))).imm8 = imm8 := by
  constructor <;> apply BitVec.eq_of_toNat_eq
  · rw [ra_toNat, joinWord_toNat, lowRI8_toNat]; omega
  · rw [imm8_toNat, joinWord_toNat, lowRI8_toNat]; omega

@[simp] theorem fields_joinWord_lowI21 (imm21 : BitVec 21) :
    (extractFields (joinWord k (lowI21 imm21))).imm21 = imm21 := by
  apply BitVec.eq_of_toNat_eq
  rw [imm21_toNat, joinWord_toNat, lowI21_toNat]
  omega

@[simp] theorem fields_joinWord_lowRRI16 (imm16 : BitVec 16) :
    (extractFields (joinWord k (lowRRI16 ra rb imm16))).ra = ra ∧
      (extractFields (joinWord k (lowRRI16 ra rb imm16))).rb = rb ∧
      (extractFields (joinWord k (lowRRI16 ra rb imm16))).imm16 = imm16 := by
  refine ⟨?_, ?_, ?_⟩ <;> apply BitVec.eq_of_toNat_eq
  · rw [ra_toNat, joinWord_toNat, lowRRI16_toNat]; omega
  · rw [rb_toNat, joinWord_toNat, lowRRI16_toNat]; omega
  · rw [imm16_toNat, joinWord_toNat, lowRRI16_toNat]; omega

@[simp] theorem fields_joinWord_lowI16 (imm16 : BitVec 16) :
    (extractFields (joinWord k (lowI16 imm16))).imm16 = imm16 := by
  apply BitVec.eq_of_toNat_eq
  rw [imm16_toNat, joinWord_toNat, lowI16_toNat]
  omega

@[simp] theorem fields_joinWord_lowCALL (fidx20 : BitVec 20) (flag0 : BitVec 1) :
    (extractFields (joinWord k (lowCALL ra fidx20 flag0))).ra = ra ∧
      (extractFields (joinWord k (lowCALL ra fidx20 flag0))).fidx20 = fidx20 ∧
      (extractFields (joinWord k (lowCALL ra fidx20 flag0))).flag0 = flag0 := by
  refine ⟨?_, ?_, ?_⟩ <;> apply BitVec.eq_of_toNat_eq
  · rw [ra_toNat, joinWord_toNat, lowCALL_toNat]; omega
  · rw [fidx20_toNat, joinWord_toNat, lowCALL_toNat]; omega
  · rw [flag0_toNat, joinWord_toNat, lowCALL_toNat]; omega

@[simp] theorem fields_joinWord_lowPOP (pop22 : BitVec 22) (pop4 : BitVec 4) :
    (extractFields (joinWord k (lowPOP pop22 pop4))).pop22 = pop22 ∧
      (extractFields (joinWord k (lowPOP pop22 pop4))).pop4 = pop4 := by
  constructor <;> apply BitVec.eq_of_toNat_eq
  · rw [pop22_toNat, joinWord_toNat, lowPOP_toNat]; omega
  · rw [pop4_toNat, joinWord_toNat, lowPOP_toNat]; omega

end Formats

/-! ### Decoding the word of an instruction -/

section Decode

variable {p : Params} {k : Opcode}

theorem decodeWith_joinWord_of_rowBoundTo {rule : DecodeRule} (h : rowBoundTo p k rule = true) (low26 : BitVec 26) :
    decodeWith p (joinWord k low26) = rowInstr rule (joinWord k low26) := by
  obtain ⟨hslot, hrule⟩ := (rowBoundTo_iff p k rule).mp h
  rw [decodeWith_of_unnamed (by rwa [fields_joinWord_opc]), hrule]

/-- A rule without a row in spec/opcode_table.json gives `row`, which keeps every bit of the word. -/
theorem rowInstr_of_not_hasTableRow {rule : DecodeRule} (h : rule.hasTableRow = false) (w : Word) :
    rowInstr rule w = .row (extractFields w).opc (low26Of w) := by
  cases rule
  case DR_R | DR_RR | DR_RRR | DR_RI21 | DR_RI16 | DR_RI8 | DR_RI21S11 | DR_LDG | DR_LDBD_G | DR_LDBD_C | DR_LDBD_U
    | DR_LDBD_S => cases h
  all_goals rfl

theorem decodeWith_joinWord_of_otherRow (h : otherRow p k = true) (low26 : BitVec 26) :
    decodeWith p (joinWord k low26) = .row k low26 := by
  obtain ⟨hslot, hrule⟩ := (otherRow_iff p k).mp h
  rw [decodeWith_of_unnamed (by rwa [fields_joinWord_opc]), rowInstr_of_not_hasTableRow hrule, fields_joinWord_opc,
    low26Of_joinWord]

theorem decodeWith_joinWord_of_empty (h : tableSlot p k = .empty) (low26 : BitVec 26) :
    decodeWith p (joinWord k low26) = .ud k := by
  rw [decodeWith_of_empty (by rwa [fields_joinWord_opc]), fields_joinWord_opc]

end Decode

/-- Settles O5, by the kind of slot an instruction's opcode names: the slot gives back the constructor, and the format's
fields its arguments. -/
theorem decodeOfEncodeReturnsInstruction : Obligations.DecodeOfEncodeReturnsInstruction := by
  intro p i h
  cases i
  case row k low26 => exact decodeWith_joinWord_of_otherRow h low26
  case ud k => exact decodeWith_joinWord_of_empty (beq_iff_eq.mp h) 0
  case drR | drRR | drRRR | drRI21 | drRI16 | drRI8 | drRI21S11 | drLDG | drLDBDG | drLDBDC | drLDBDU | drLDBDS =>
    refine (decodeWith_joinWord_of_rowBoundTo h _).trans ?_
    simp [rowInstr, Instr.low26]
  -- The other constructors carry no opcode: theirs is that of a pinned or a named entry.
  all_goals simp [decodeWith, encodeWith, Instr.opcodeWith, Instr.low26]

/-! ### The opcode table -/

theorem tableEntry_isSome_iff_tableSlot (p : Params) (k : Opcode) :
    (tableEntry p k).isSome = true ↔ tableSlot p k ≠ .empty := by
  unfold tableEntry
  cases tableSlot p k <;> simp

theorem tableSlot_ne_empty_iff (p : Params) (k : Opcode) : tableSlot p k ≠ .empty ↔ k ≤ p.lastOpc := by
  rcases tableSlot_cases p k with ⟨m, hslot, rfl⟩ | ⟨m, hslot, rfl⟩ | ⟨hslot, hle⟩ | ⟨hslot, hlt⟩
  · simp [hslot, pinned_opcode_le p m]
  · simp [hslot, p.opcOf_le m]
  · simp [hslot, hle]
  · simp [hslot, hlt]

/-- Settles O9. -/
theorem tableIsContiguous : Obligations.TableIsContiguous := by
  intro p
  have hge : 0x36 ≤ p.lastOpc.toNat := p.lastOpc_ge
  exact ⟨hge, fun k => (tableEntry_isSome_iff_tableSlot p k).trans (tableSlot_ne_empty_iff p k)⟩

theorem tableEntry_pinned (p : Params) (m : Pinned) : tableEntry p m.opcode = some (pinnedEntry p m) := by
  simp [tableEntry]

theorem tableEntry_unnumbered (p : Params) (m : Unnumbered) :
    tableEntry p (p.opcOf m) = some (unnumberedEntry p m) := by
  simp [tableEntry]

/-- Settles O10. -/
theorem tableEntriesStand : Obligations.TableEntriesStand := fun p =>
  ⟨tableEntry_pinned p .add, tableEntry_pinned p .jmp, tableEntry_pinned p .call, tableEntry_pinned p .mov,
    tableEntry_pinned p .stMem32, tableEntry_pinned p .unk36, tableEntry_unnumbered p .jz, tableEntry_unnumbered p .jnz,
    tableEntry_unnumbered p .retn, tableEntry_unnumbered p .push, tableEntry_unnumbered p .pop,
    tableEntry_unnumbered p .pushLocal32, tableEntry_unnumbered p .ldLocal32b, tableEntry_unnumbered p .mkstr,
    tableEntry_unnumbered p .stMem8, tableEntry_unnumbered p .stGc, tableEntry_unnumbered p .decref,
    tableEntry_unnumbered p .mkgc⟩

end Sys2Proof

namespace Sys2Proof.Machine

/-! ### Fields of packed ports, single bits as fields of width 1 -/

theorem toNat_extractLsb' {n : Nat} (b : BitVec n) (start len : Nat) :
    (b.extractLsb' start len).toNat = b.toNat / 2 ^ start % 2 ^ len := by
  rw [BitVec.extractLsb'_toNat, Nat.shiftRight_eq_div_pow]

theorem ofBool_getLsbD {n : Nat} (b : BitVec n) (i : Nat) : BitVec.ofBool (b.getLsbD i) = b.extractLsb' i 1 := by
  ext j hj
  obtain rfl : j = 0 := by omega
  simp

theorem getLsbD_eq_iff_toNat {n : Nat} (b : BitVec n) (i : Nat) (c : Bool) :
    b.getLsbD i = c ↔ b.toNat / 2 ^ i % 2 ^ 1 = (BitVec.ofBool c).toNat := by
  rw [← BitVec.ofBool_eq_iff_eq, ofBool_getLsbD, ← BitVec.toNat_inj, toNat_extractLsb']

/-! ### The flags on `flags_o` (R32) -/

theorem packFlags_toNat (f : Flags) :
    (packFlags f).toNat =
      (BitVec.ofBool f.use1).toNat + (BitVec.ofBool f.use2).toNat * 2 ^ 1 + (BitVec.ofBool f.use3).toNat * 2 ^ 2 +
      (BitVec.ofBool f.chg1).toNat * 2 ^ 3 + (BitVec.ofBool f.chg2).toNat * 2 ^ 4 + (BitVec.ofBool f.chg3).toNat * 2 ^ 5 +
      (BitVec.ofBool f.jump).toNat * 2 ^ 6 + (BitVec.ofBool f.call).toNat * 2 ^ 7 +
      (BitVec.ofBool f.noFall).toNat * 2 ^ 8 := by
  unfold packFlags
  repeat rw [append_toNat]
  omega

theorem getLsbD_packFlags (f : Flags) :
    (packFlags f).getLsbD 0 = f.use1 ∧ (packFlags f).getLsbD 1 = f.use2 ∧ (packFlags f).getLsbD 2 = f.use3 ∧
    (packFlags f).getLsbD 3 = f.chg1 ∧ (packFlags f).getLsbD 4 = f.chg2 ∧ (packFlags f).getLsbD 5 = f.chg3 ∧
    (packFlags f).getLsbD 6 = f.jump ∧ (packFlags f).getLsbD 7 = f.call ∧ (packFlags f).getLsbD 8 = f.noFall := by
  simp only [getLsbD_eq_iff_toNat, packFlags_toNat]
  omega

@[simp] theorem unpackFlags_packFlags (f : Flags) : unpackFlags (packFlags f) = f := by
  obtain ⟨h0, h1, h2, h3, h4, h5, h6, h7, h8⟩ := getLsbD_packFlags f
  simp only [unpackFlags, h0, h1, h2, h3, h4, h5, h6, h7, h8]

/-- Settles O25. -/
theorem flagPositions : Obligations.FlagPositions := by
  intro f
  obtain ⟨h0, h1, h2, h3, h4, h5, h6, h7, h8⟩ := getLsbD_packFlags f
  exact ⟨h0, h1, h2, h3, h4, h5, h6, h7, h8, unpackFlags_packFlags f⟩

/-! ### The 55 bits of a slot (R37) -/

theorem bits_toNat (s : Slot) :
    s.bits.toNat =
      s.imm.toNat + s.iw.toNat * 2 ^ 32 + s.ik.toNat * 2 ^ 38 + (BitVec.ofBool s.iv).toNat * 2 ^ 40 + s.r.toNat * 2 ^ 41 +
      (BitVec.ofBool s.rv).toNat * 2 ^ 46 + s.xop.toNat * 2 ^ 47 + (BitVec.ofBool s.bp).toNat * 2 ^ 49 +
      (BitVec.ofBool s.iprel).toNat * 2 ^ 50 + s.space.toNat * 2 ^ 51 + (BitVec.ofBool s.ref).toNat * 2 ^ 53 +
      (BitVec.ofBool s.v).toNat * 2 ^ 54 := by
  unfold Slot.bits
  repeat rw [append_toNat]
  omega

theorem fields_of_bits (s : Slot) :
    s.bits.extractLsb' 0 32 = s.imm ∧ s.bits.extractLsb' 32 6 = s.iw ∧ s.bits.extractLsb' 38 2 = s.ik ∧
    s.bits.getLsbD 40 = s.iv ∧ s.bits.extractLsb' 41 5 = s.r ∧ s.bits.getLsbD 46 = s.rv ∧
    s.bits.extractLsb' 47 2 = s.xop ∧ s.bits.getLsbD 49 = s.bp ∧ s.bits.getLsbD 50 = s.iprel ∧
    s.bits.extractLsb' 51 2 = s.space ∧ s.bits.getLsbD 53 = s.ref ∧ s.bits.getLsbD 54 = s.v := by
  simp only [getLsbD_eq_iff_toNat, ← BitVec.toNat_inj, toNat_extractLsb', bits_toNat]
  omega

@[simp] theorem slotOfBits_bits (s : Slot) : slotOfBits s.bits = s := by
  obtain ⟨himm, hiw, hik, hiv, hr, hrv, hxop, hbp, hiprel, hspace, href, hv⟩ := fields_of_bits s
  simp only [slotOfBits, himm, hiw, hik, hiv, hr, hrv, hxop, hbp, hiprel, hspace, href, hv]

@[simp] theorem bits_slotOfBits (b : BitVec 55) : (slotOfBits b).bits = b := by
  apply BitVec.eq_of_toNat_eq
  simp only [bits_toNat, slotOfBits, ofBool_getLsbD, toNat_extractLsb']
  omega

/-- Settles O26. -/
theorem slotFieldsRoundTrip : Obligations.SlotFieldsRoundTrip := ⟨fields_of_bits, slotOfBits_bits, bits_slotOfBits⟩

/-! ### Packed forms and what they denote (R38) -/

theorem unpackSlot_of_slotLeaf {s : Slot} {leaf : Operand} (hv : s.v = true) (h : slotLeaf s = some leaf) :
    unpackSlot s =
      some (if s.ref then .ref (if s.bp then .expr (.reg BP) .add leaf else leaf) (spaceOfBits s.space) s.iprel
        else if s.bp then .expr (.reg BP) .add leaf else leaf) := by
  simp only [unpackSlot, hv, h, if_true, Option.map_some]

theorem unpackSlot_eq_some {s : Slot} {o : Operand} (h : unpackSlot s = some o) :
    s.v = true ∧ ∃ leaf, slotLeaf s = some leaf := by
  unfold unpackSlot at h
  split at h
  · next hv =>
    obtain ⟨leaf, hleaf, -⟩ := Option.map_eq_some_iff.mp h
    exact ⟨hv, leaf, hleaf⟩
  · cases h

/-- Where a slot denotes an operand that is no Reference, the slot made a Reference denotes the Reference to it. -/
theorem unpackSlot_refSlot {o : Operand} {s : Slot} (href : s.ref = false) (h : unpackSlot s = some o) (space : Space)
    (iprel : Bool) : unpackSlot (refSlot (spaceBits space) iprel s) = some (.ref o space iprel) := by
  obtain ⟨hv, leaf, hleaf⟩ := unpackSlot_eq_some h
  have hinner : (if s.bp then .expr (.reg BP) .add leaf else leaf) = o := by
    simpa [unpackSlot_of_slotLeaf hv hleaf, href] using h
  calc unpackSlot (refSlot (spaceBits space) iprel s)
      _ = some (.ref (if s.bp then .expr (.reg BP) .add leaf else leaf) (spaceOfBits (spaceBits space)) iprel) :=
        unpackSlot_of_slotLeaf (s := refSlot (spaceBits space) iprel s) hv hleaf
      _ = some (.ref o space iprel) := by rw [hinner, spaceOfBits_spaceBits]

theorem unpack_of_packLeaf {o : Operand} {s : Slot} (h : packLeaf o = some s) :
    s.v = true ∧ s.bp = false ∧ s.ref = false ∧ slotLeaf s = some o := by
  unfold packLeaf at h
  split at h <;> cases h <;> simp [slotLeaf, slotImm, emptySlot]

/-- The inner operand of a packed form is a leaf, or `bp` plus a leaf. -/
theorem packInner_cases {o : Operand} {s : Slot} (h : packInner o = some s) :
    packLeaf o = some s ∨
      ∃ x t, o = .expr (.reg BP) .add x ∧ packLeaf x = some t ∧ s = { t with bp := true } := by
  unfold packInner at h
  split at h
  · next t hleaf => exact .inl (hleaf.trans h)
  · split at h
    · next _ r x _ =>
      split at h
      · next hr =>
        obtain ⟨t, hx, rfl⟩ := Option.map_eq_some_iff.mp h
        exact .inr ⟨x, t, hr ▸ rfl, hx, rfl⟩
      · cases h
    · cases h

theorem unpackSlot_of_packInner {o : Operand} {s : Slot} (h : packInner o = some s) :
    s.ref = false ∧ unpackSlot s = some o := by
  rcases packInner_cases h with hleaf | ⟨x, t, rfl, hleaf, rfl⟩
  · obtain ⟨hv, hbp, href, hslot⟩ := unpack_of_packLeaf hleaf
    exact ⟨href, by simp [unpackSlot_of_slotLeaf hv hslot, hbp, href]⟩
  · obtain ⟨hv, -, href, hslot⟩ := unpack_of_packLeaf hleaf
    refine ⟨href, (unpackSlot_of_slotLeaf (s := { t with bp := true }) hv hslot).trans ?_⟩
    simp [href]

theorem packOperand_of_not_ref {o : Operand} (h : ∀ inner space iprel, o ≠ .ref inner space iprel) :
    packOperand o = packInner o := by
  cases o with
  | ref inner space iprel => exact absurd rfl (h inner space iprel)
  | reg | imm | expr => simp only [packOperand]

theorem unpackSlot_of_packOperand {o : Operand} {s : Slot} (h : packOperand o = some s) : unpackSlot s = some o := by
  cases o with
  | ref inner space iprel =>
    obtain ⟨t, hinner, rfl⟩ := Option.map_eq_some_iff.mp h
    obtain ⟨href, hunpack⟩ := unpackSlot_of_packInner hinner
    exact unpackSlot_refSlot href hunpack space iprel
  | reg | imm | expr =>
    rw [packOperand_of_not_ref (by simp)] at h
    exact (unpackSlot_of_packInner h).2

/-- Settles O27. -/
theorem packedOperandsUnpack : Obligations.PackedOperandsUnpack := by
  intro o s h
  rw [slotOfBits_bits]
  exact unpackSlot_of_packOperand h

/-! ### The operands of the catalogued rules (R28, R38)

All but one are a leaf of R38 or a Reference to one. The one is that of `DR_DECREF` with a register field other than 30,
where `bp` joins a register plus an immediate. -/

/-- A leaf of R38 with no operator but ADD and no immediate of kind FIXED. -/
def plainLeaf : Operand → Bool
  | .reg _ => true
  | .imm _ _ kind => kind != .fixed
  | .expr (.reg _) .add (.imm _ _ kind) => kind != .fixed
  | _ => false

/-- Such a leaf, or a Reference to one. -/
def plainOperand : Operand → Bool
  | .ref inner _ _ => plainLeaf inner
  | o => plainLeaf o

theorem plainLeaf_cases {o : Operand} (h : plainLeaf o = true) :
    (∃ r, o = .reg r) ∨ (∃ x width kind, o = .imm x width kind ∧ kind ≠ .fixed) ∨
      ∃ r x width kind, o = .expr (.reg r) .add (.imm x width kind) ∧ kind ≠ .fixed := by
  unfold plainLeaf at h
  split at h
  · exact .inl ⟨_, rfl⟩
  · exact .inr (.inl ⟨_, _, _, rfl, bne_iff_ne.mp h⟩)
  · exact .inr (.inr ⟨_, _, _, _, rfl, bne_iff_ne.mp h⟩)
  · cases h

theorem plainOperand_cases {o : Operand} (h : plainOperand o = true) :
    plainLeaf o = true ∨ ∃ inner space iprel, o = .ref inner space iprel ∧ plainLeaf inner = true := by
  cases o with
  | ref inner space iprel => exact .inr ⟨inner, space, iprel, rfl, h⟩
  | reg | imm | expr => exact .inl h

theorem addOnly_of_plainLeaf {o : Operand} (h : plainLeaf o = true) : addOnly o = true := by
  rcases plainLeaf_cases h with ⟨r, rfl⟩ | ⟨x, width, kind, rfl, hkind⟩ | ⟨r, x, width, kind, rfl, hkind⟩
  · rfl
  · exact bne_iff_ne.mpr hkind
  · simp [addOnly, hkind]

theorem addOnly_of_plainOperand {o : Operand} (h : plainOperand o = true) : addOnly o = true := by
  rcases plainOperand_cases h with hleaf | ⟨inner, space, iprel, rfl, hleaf⟩
  · exact addOnly_of_plainLeaf hleaf
  · rw [addOnly]
    exact addOnly_of_plainLeaf hleaf

theorem packLeaf_of_plainLeaf {o : Operand} (h : plainLeaf o = true) : ∃ s, packLeaf o = some s ∧ s.bp = false := by
  rcases plainLeaf_cases h with ⟨r, rfl⟩ | ⟨x, width, kind, rfl, -⟩ | ⟨r, x, width, kind, rfl, -⟩ <;>
    exact ⟨_, rfl, rfl⟩

theorem packInner_of_packLeaf {o : Operand} {s : Slot} (h : packLeaf o = some s) : packInner o = some s := by
  simp only [packInner, h]

theorem packOperand_of_plainOperand {o : Operand} (h : plainOperand o = true) :
    ∃ s, packOperand o = some s ∧ s.bp = false := by
  rcases plainOperand_cases h with hleaf | ⟨inner, space, iprel, rfl, hleaf⟩
  · obtain ⟨s, hpack, hbp⟩ := packLeaf_of_plainLeaf hleaf
    cases o with
    | ref => cases hleaf
    | reg | imm | expr => exact ⟨s, (packOperand_of_not_ref (by simp)).trans (packInner_of_packLeaf hpack), hbp⟩
  · obtain ⟨s, hpack, hbp⟩ := packLeaf_of_plainLeaf hleaf
    exact ⟨refSlot (spaceBits space) iprel s, by rw [packOperand_ref, packInner_of_packLeaf hpack]; rfl, hbp⟩

theorem plainOperand_storeDest (ra : RegIdx) (imm16 : BitVec 16) : plainOperand (storeDest ra imm16) = true := by
  unfold storeDest
  split_ifs <;> rfl

theorem plainOperand_storeValue (rb : RegIdx) : plainOperand (storeValue rb) = true := by
  unfold storeValue
  split <;> rfl

theorem drDECREF_of_bp (imm21 : BitVec 21) :
    drDECREF BP imm21 = [.ref (.expr (.reg BP) .add (constImm imm21 21)) .stack false] := rfl

theorem drDECREF_of_ne_bp {ra : RegIdx} (h : ra ≠ BP) (imm21 : BitVec 21) :
    drDECREF ra imm21 = [.ref (.expr (.reg BP) .add (.expr (.reg ra) .add (constImm imm21 21))) .stack false] :=
  if_neg h

theorem all_plainOperand_ruleOperands (p : Params) {rule : DecodeRule} {w : Word} (hopen : rule ≠ .DR_OPEN)
    (hdecref : ¬ (rule = .DR_DECREF ∧ (extractFields w).ra ≠ BP)) :
    (ruleOperands p rule w).all plainOperand = true := by
  cases rule
  case DR_OPEN => exact absurd rfl hopen
  case DR_DECREF =>
    have hra : (extractFields w).ra = BP := not_not.mp fun hne => hdecref ⟨rfl, hne⟩
    simp only [ruleOperands, hra, drDECREF_of_bp]
    rfl
  case DR_CALL => simp only [ruleOperands, drCALL]; split <;> rfl
  case DR_PUSH => simp only [ruleOperands, drPUSH]; split <;> rfl
  case DR_MOV => simp only [ruleOperands, drMOV]; split <;> rfl
  case DR_STORE => simp [ruleOperands, drSTORE, plainOperand_storeDest, plainOperand_storeValue]
  all_goals rfl

/-- What an operand of a catalogued rule can be. -/
theorem mem_ruleOperands_cases {p : Params} {rule : DecodeRule} {w : Word} {o : Operand} (hopen : rule ≠ .DR_OPEN)
    (h : o ∈ ruleOperands p rule w) :
    (¬ (rule = .DR_DECREF ∧ (extractFields w).ra ≠ BP) ∧ plainOperand o = true) ∨
      ((rule = .DR_DECREF ∧ (extractFields w).ra ≠ BP) ∧
        o = .ref (.expr (.reg BP) .add (.expr (.reg (extractFields w).ra) .add (constImm (extractFields w).imm21 21)))
          .stack false) := by
  by_cases hdecref : rule = .DR_DECREF ∧ (extractFields w).ra ≠ BP
  · obtain ⟨rfl, hra⟩ := hdecref
    rw [ruleOperands, drDECREF_of_ne_bp hra, List.mem_singleton] at h
    exact .inr ⟨⟨rfl, hra⟩, h⟩
  · exact .inl ⟨hdecref, List.all_eq_true.mp (all_plainOperand_ruleOperands p hopen hdecref) o h⟩

/-- Settles O24. -/
theorem cataloguedRulesUseAddOnly : Obligations.CataloguedRulesUseAddOnly := by
  intro p rule w o hopen h
  rcases mem_ruleOperands_cases hopen h with ⟨-, hplain⟩ | ⟨-, rfl⟩
  · exact addOnly_of_plainOperand hplain
  · rfl

theorem extract_ra_ne_30_iff (w : Word) : extract w 21 26 ≠ 30 ↔ (extractFields w).ra ≠ BP := by
  have hra : extract w 21 26 = (extractFields w).ra.toNat := by rw [extract_eq_div_mod, ra_toNat]
  rw [hra]
  exact not_congr (BitVec.toNat_inj (y := BP))

/-- Settles O28. -/
theorem cataloguedOperandsArePackable : Obligations.CataloguedOperandsArePackable := by
  intro p rule w o hopen h
  rw [extract_ra_ne_30_iff]
  rcases mem_ruleOperands_cases hopen h with ⟨hdecref, hplain⟩ | ⟨hdecref, rfl⟩
  · obtain ⟨s, hpack, hbp⟩ := packOperand_of_plainOperand hplain
    exact ⟨s, hpack, iff_of_false (Bool.eq_false_iff.mp hbp) hdecref⟩
  · exact ⟨_, rfl, iff_of_true rfl hdecref⟩

end Sys2Proof.Machine
end

section
/-! The byte stream, IP-relative references, and a step as a function of the word alone (spec/20_memory.md R51 to R56). -/

namespace Sys2Proof

/-- Settles O8. -/
theorem streamWordsAreLittleEndian : Obligations.StreamWordsAreLittleEndian := by
  refine ⟨fun b0 b1 b2 b3 rest => ⟨wordOfBytes b0 b1 b2 b3, rfl, ?_⟩, takeWord_bytesOfWord, takeWord_eq_none_iff⟩
  rw [wordOfBytes_toNat]
  omega

end Sys2Proof

namespace Sys2Proof.Machine

/-! ### IP-relative references of the catalogued rules (R55) -/

/-- A Reference marked as relative to the instruction pointer. -/
def ipRelative : Operand → Bool
  | .ref _ _ iprel => iprel
  | _ => false

theorem ipRelative_storeDest (ra : RegIdx) (imm16 : BitVec 16) : ipRelative (storeDest ra imm16) = false := by
  unfold storeDest
  split_ifs <;> rfl

theorem ipRelative_storeValue (rb : RegIdx) : ipRelative (storeValue rb) = false := by
  unfold storeValue
  split <;> rfl

section Branches

variable {p : Params} {w : Word} {inner : Operand} {space : Space}

theorem mem_ruleOperands_brc_iff : .ref inner space true ∈ ruleOperands p .DR_BRC w ↔
    inner = .imm (branchDisp (extractFields w).imm21) 23 .const ∧ space = .code := by
  simp [ruleOperands, drBRC]

theorem mem_ruleOperands_jmp_iff : .ref inner space true ∈ ruleOperands p .DR_JMP w ↔
    inner = .imm (branchDisp (extractFields w).imm21) 21 .const ∧ space = .code := by
  simp [ruleOperands, drJMP]

end Branches

theorem any_ipRelative_ruleOperands (p : Params) {rule : DecodeRule} (w : Word) (hopen : rule ≠ .DR_OPEN)
    (hbrc : rule ≠ .DR_BRC) (hjmp : rule ≠ .DR_JMP) : (ruleOperands p rule w).any ipRelative = false := by
  cases rule
  case DR_OPEN => exact absurd rfl hopen
  case DR_BRC => exact absurd rfl hbrc
  case DR_JMP => exact absurd rfl hjmp
  case DR_CALL => simp only [ruleOperands, drCALL]; split <;> rfl
  case DR_PUSH => simp only [ruleOperands, drPUSH]; split <;> rfl
  case DR_MOV => simp only [ruleOperands, drMOV]; split <;> rfl
  case DR_DECREF => simp only [ruleOperands, drDECREF]; split <;> rfl
  case DR_STORE => simp [ruleOperands, drSTORE, ipRelative_storeDest, ipRelative_storeValue]
  all_goals rfl

/-- Only a branch rule has an IP-relative operand. -/
theorem branch_of_mem_ruleOperands {p : Params} {rule : DecodeRule} {w : Word} {inner : Operand} {space : Space}
    (hopen : rule ≠ .DR_OPEN) (h : .ref inner space true ∈ ruleOperands p rule w) :
    rule = .DR_BRC ∨ rule = .DR_JMP := by
  by_contra hne
  obtain ⟨hbrc, hjmp⟩ := not_or.mp hne
  exact List.any_eq_false.mp (any_ipRelative_ruleOperands p w hopen hbrc hjmp) _ h rfl

/-- Settles O23. -/
theorem onlyBranchRulesAreIpRelative : Obligations.OnlyBranchRulesAreIpRelative := by
  intro p rule w hopen
  refine ⟨⟨?_, ?_⟩, ?_⟩
  · rintro ⟨inner, space, h⟩
    exact branch_of_mem_ruleOperands hopen h
  · rintro (rfl | rfl)
    · exact ⟨_, _, mem_ruleOperands_brc_iff.mpr ⟨rfl, rfl⟩⟩
    · exact ⟨_, _, mem_ruleOperands_jmp_iff.mpr ⟨rfl, rfl⟩⟩
  · intro inner space h
    rcases branch_of_mem_ruleOperands hopen h with rfl | rfl
    · exact (mem_ruleOperands_brc_iff.mp h).2
    · exact (mem_ruleOperands_jmp_iff.mp h).2

/-! ### The result of the decoded instruction is the block's function (R202)

`exec` drives the outputs by its own arm for each instruction, `decodeInstruction` by the table entry's rule. Slot by slot
they give one result. -/

section BlockFunction

variable {w : Word}

theorem instrResult_decode_of_pinned {m : Pinned} (hopc : m.opcode = (extractFields w).opc) :
    instrResult (decode w) = pinnedResult m (ruleOperands Config.params (pinnedEntry Config.params m).rule w) := by
  have hslot : tableSlot Config.params (extractFields w).opc = .pinned m := hopc ▸ tableSlot_pinned _ m
  have hword : joinWord m.opcode (low26Of w) = w := hopc ▸ joinWord_opc_low26 w
  rw [decode, decodeWith, hslot]
  cases m
  case unk36 =>
    calc instrResult (.unk36 (low26Of w))
      _ = pinnedResult .unk36 (openOperands Config.params Pinned.unk36.opcode (joinWord Pinned.unk36.opcode (low26Of w))) := rfl
      _ = pinnedResult .unk36 (openOperands Config.params (extractFields w).opc w) := by rw [hword, hopc]
  all_goals rfl

theorem instrResult_decode_of_unnumbered {m : Unnumbered} (hopc : Config.params.opcOf m = (extractFields w).opc) :
    instrResult (decode w) = namedResult m (ruleOperands Config.params (unnumberedEntry Config.params m).rule w) := by
  have hslot : tableSlot Config.params (extractFields w).opc = .unnumbered m := hopc ▸ tableSlot_unnumbered _ m
  have hword : joinWord (Config.params.opcOf m) (low26Of w) = w := hopc ▸ joinWord_opc_low26 w
  rw [decode, decodeWith, hslot]
  cases m
  case mkgc =>
    calc instrResult (.mkgc (low26Of w))
      _ = namedResult .mkgc (openOperands Config.params (Config.params.opcOf .mkgc)
            (joinWord (Config.params.opcOf .mkgc) (low26Of w))) := rfl
      _ = namedResult .mkgc (openOperands Config.params (extractFields w).opc w) := by rw [hword, hopc]
  all_goals rfl

theorem instrResult_row (w : Word) :
    instrResult (.row (extractFields w).opc (low26Of w)) =
      rowResult (extractFields w).opc
        (ruleOperands Config.params (Config.params.row (extractFields w).opc).rule w) :=
  calc instrResult (.row (extractFields w).opc (low26Of w))
    _ = rowResult (extractFields w).opc (ruleOperands Config.params (Config.params.row (extractFields w).opc).rule
          (joinWord (extractFields w).opc (low26Of w))) := rfl
    _ = _ := by rw [joinWord_opc_low26]

/-- A rule with a row of its own in spec/opcode_table.json keeps the fields it reads, any other rule the whole word. -/
theorem instrResult_rowInstr {rule : DecodeRule} (hrule : (Config.params.row (extractFields w).opc).rule = rule) :
    instrResult (rowInstr rule w) = rowResult (extractFields w).opc (ruleOperands Config.params rule w) := by
  cases rule
  case DR_R | DR_RR | DR_RRR | DR_RI21 | DR_RI16 | DR_RI8 | DR_RI21S11 | DR_LDG | DR_LDBD_G | DR_LDBD_C | DR_LDBD_U
    | DR_LDBD_S => rfl
  all_goals rw [rowInstr_of_not_hasTableRow rfl, instrResult_row, hrule]

/-- What the decoded instruction drives the outputs to is `decode(TABLE, w)`. -/
theorem instrResult_decode (w : Word) : instrResult (decode w) = decodeInstruction Config.params w := by
  rcases tableSlot_cases Config.params (extractFields w).opc with
    ⟨m, -, hopc⟩ | ⟨m, -, hopc⟩ | ⟨hslot, -⟩ | ⟨hslot, -⟩
  · rw [instrResult_decode_of_pinned hopc, decodeInstruction_of_entry (hopc ▸ tableEntry_pinned _ m), ← hopc]
    rfl
  · rw [instrResult_decode_of_unnumbered hopc, decodeInstruction_of_entry (hopc ▸ tableEntry_unnumbered _ m), ← hopc]
    rfl
  · rw [decode, decodeWith_of_unnamed hslot, instrResult_rowInstr rfl,
      decodeInstruction_of_entry (by rw [tableEntry, hslot])]
    rfl
  · rw [decode, decodeWith_of_empty hslot, decodeInstruction_of_no_entry (by rw [tableEntry, hslot])]
    rfl

end BlockFunction

/-! ### The outputs after a step (R53, R56) -/

/-- What a step on a presented word leaves on the block's outputs is a function of the word alone. -/
theorem step_outputs_of_takeWord {s : State} {w : Word} {rest : List Byte} (h : takeWord s.stream = some (w, rest)) :
    ∃ t, step s = .next t ∧ t.wordI = w ∧ t.decoded = decodeInstruction Config.params w ∧
      t.ports = portsOf w (decodeInstruction Config.params w) ∧ t.line = lineOf Config.params w :=
  ⟨_, step_of_takeWord h, by simp [instrResult_decode, lineOf]⟩

/-- Settles O47. -/
theorem outputsForgetThePast : Obligations.OutputsForgetThePast := by
  intro s s' w rest rest' h h'
  obtain ⟨t, hstep, hword, hdecoded, hports, hline⟩ := step_outputs_of_takeWord h
  obtain ⟨t', hstep', hword', hdecoded', hports', hline'⟩ := step_outputs_of_takeWord h'
  exact ⟨t, t', hstep, hstep', hword.trans hword'.symm, hdecoded.trans hdecoded'.symm, hports.trans hports'.symm,
    hline.trans hline'.symm⟩

/-- Outputs that already follow `word_i` stay as they are when they are driven again. -/
theorem emit_eq_self_of_outputsFollowInput {s : State} (h : OutputsFollowInput s) :
    emit (decodeInstruction Config.params s.wordI) s = s := by
  obtain ⟨hdecoded, hports, hline⟩ := h
  rw [← hdecoded, emit, ← hports, ← hline]

/-- Settles O48. -/
theorem decodingAgainChangesNothing : Obligations.DecodingAgainChangesNothing := by
  intro s hs hlen
  calc step s
    _ = .next (emit (instrResult (decode s.wordI)) s) := step_of_no_word ((takeWord_eq_none_iff _).mpr hlen)
    _ = .next (emit (decodeInstruction Config.params s.wordI) s) := by rw [instrResult_decode]
    _ = .next s := by rw [emit_eq_self_of_outputsFollowInput hs]

end Sys2Proof.Machine
end

section
/-! The extractor, operand counts, and the multiplexer network against the decode rules (spec/30_encoding.md R70 to R81). -/

namespace Sys2Proof

/-! ### The extractor's fields and mode predicates (R70, R71) -/

/-- The slice of a word by R8's formula is its wire slice. -/
theorem extractLsb'_eq_slice (w : Word) (start len : Nat) :
    w.extractLsb' start len = Machine.slice w start (start + len) := by
  apply BitVec.eq_of_toNat_eq
  rw [Machine.slice, BitVec.toNat_ofNat, extract_eq_div_mod, Nat.add_sub_cancel_left, Nat.mod_mod,
    BitVec.extractLsb'_toNat, Nat.shiftRight_eq_div_pow]

theorem extract_ra (w : Word) : extract w 21 26 = (extractFields w).ra.toNat := by
  rw [extract_eq_div_mod, ra_toNat]

theorem extract_rb (w : Word) : extract w 16 21 = (extractFields w).rb.toNat := by
  rw [extract_eq_div_mod, rb_toNat]

theorem extract_imm16 (w : Word) : extract w 0 16 = (extractFields w).imm16.toNat := by
  rw [extract_eq_div_mod, imm16_toNat, Nat.pow_zero, Nat.div_one]

section Modes

variable (f : Fields)

@[simp] theorem raZero_iff : f.modes.raZero = true ↔ f.ra = 0 := beq_iff_eq
@[simp] theorem raBp_iff : f.modes.raBp = true ↔ f.ra = BP := beq_iff_eq
@[simp] theorem rbSp_iff : f.modes.rbSp = true ↔ f.rb = SP := beq_iff_eq
@[simp] theorem i16Zero_iff : f.modes.i16Zero = true ↔ f.imm16 = 0 := beq_iff_eq
@[simp] theorem i16One_iff : f.modes.i16One = true ↔ f.imm16 = 1 := beq_iff_eq

end Modes

/-- Settles O1. -/
theorem extractorFieldsAndPredicates : Obligations.ExtractorFieldsAndPredicates := by
  intro w
  rw [extract_ra, extract_rb, extract_imm16]
  refine ⟨?_, ?_, ?_, ?_, ?_, ?_⟩
  · simp only [extractFields, extractLsb'_eq_slice, Nat.reduceAdd]
  · exact (raZero_iff _).trans BitVec.toNat_inj.symm
  · exact (raBp_iff _).trans BitVec.toNat_inj.symm
  · exact (rbSp_iff _).trans BitVec.toNat_inj.symm
  · exact (i16Zero_iff _).trans BitVec.toNat_inj.symm
  · exact (i16One_iff _).trans BitVec.toNat_inj.symm

end Sys2Proof

namespace Sys2Proof.Machine

/-! ### Operand counts (R74) -/

/-- No mode of a rule changes how many operands it gives. -/
theorem length_ruleOperands (p : Params) (rule : DecodeRule) (w : Word) :
    (ruleOperands p rule w).length = ruleCount p rule (extractFields w).opc := by
  cases rule
  case DR_CALL => simp only [ruleOperands, drCALL]; split <;> rfl
  case DR_PUSH => simp only [ruleOperands, drPUSH]; split <;> rfl
  case DR_DECREF => simp only [ruleOperands, drDECREF]; split <;> rfl
  case DR_MOV => simp only [ruleOperands, drMOV]; split <;> rfl
  case DR_OPEN => simp only [ruleOperands, openOperands, ruleCount, List.length_map, List.length_range]
  all_goals rfl

theorem ruleCount_le_three (p : Params) (rule : DecodeRule) (k : Opcode) : ruleCount p rule k ≤ 3 := by
  cases rule
  case DR_OPEN => exact Nat.le_of_lt_succ (p.openCount k).isLt
  all_goals simp [ruleCount]

/-- Settles O19. -/
theorem operandCountIsFixedByTheRule : Obligations.OperandCountIsFixedByTheRule := by
  intro p w e he
  have hcount : (decodeInstruction p w).operands.length = ruleCount p e.rule (extractFields w).opc := by
    rw [decodeInstruction_of_entry he]
    exact length_ruleOperands p e.rule w
  exact ⟨hcount, hcount.trans_le (ruleCount_le_three p e.rule _)⟩

/-! ### The flags port (R81) -/

@[simp] theorem packFlags_zero : packFlags Flags.zero = 0 := by decide

/-- Settles O21. -/
theorem flagsPortIsTheTableColumn : Obligations.FlagsPortIsTheTableColumn := by
  refine fun p w => ⟨fun e he => ?_, fun hnone => ?_⟩
  · rw [decodeInstruction_of_entry he]
    exact ⟨rfl, rfl⟩
  · rw [decodeInstruction_of_no_entry hnone]
    exact ⟨rfl, packFlags_zero⟩

/-! ### The operand a candidate stands for (R79)

A candidate is defined by wires into the fields of a slot. It carries the packed form of the operand below, and the empty
candidate carries none. -/

/-- The operand a candidate stands for, in the terms of the decode rules. -/
def candidateOperand (f : Fields) : Candidate → Option Operand
  | .kRA => some (.reg f.ra)
  | .kRB => some (.reg f.rb)
  | .kRC => some (.reg f.rc)
  | .kI21 => some (constImm f.imm21 21)
  | .kI16 => some (constImm f.imm16 16)
  | .kI8 => some (constImm f.imm8 8)
  | .kI21S11 => some (.imm (f.imm21.setWidth 32 <<< 11) 32 .const)
  | .kBRC => some (.ref (.imm (branchDisp f.imm21) 23 .const) .code true)
  | .kJMP => some (.ref (.imm (branchDisp f.imm21) 21 .const) .code true)
  | .kG21 => some (.ref (constImm f.imm21 21) .global false)
  | .kBD space => some (.ref (basePlus16 f.rb f.imm16) space false)
  | .kFP16 => some (frameRef16 f.imm16)
  | .kFP21 => some (.ref (.expr (.reg BP) .add (constImm f.imm21 21)) .stack false)
  | .kFPR21 => some (.ref (.expr (.reg BP) .add (.expr (.reg f.ra) .add (constImm f.imm21 21))) .stack false)
  | .kBOOL5 => some (boolImm f.ra 5)
  | .kFIDX => some (constImm f.fidx20 20)
  | .kFLAG => some (boolImm f.flag0 1)
  | .kPOP22 => some (constImm f.pop22 22)
  | .kPOP4 => some (constImm f.pop4 4)
  | .kZERO32 => some (.imm 0 32 .const)
  | .kMEM space => some (.ref (.reg f.ra) space false)
  | .kRBI16 => some (basePlus16 f.rb f.imm16)
  | .kEMPTY => none

/-- Two zero wires below the field are the shift left by 2; nothing is cut (R130). -/
theorem append_zero_eq_branchDisp (imm21 : BitVec 21) : (imm21 ++ 0#2).setWidth 32 = branchDisp imm21 := by
  apply BitVec.eq_of_toNat_eq
  rw [branchDisp, BitVec.toNat_setWidth, append_toNat, BitVec.toNat_shiftLeft, BitVec.toNat_setWidth, Nat.shiftLeft_eq,
    BitVec.toNat_ofNat]
  omega

/-- Eleven zero wires below the field are the shift left by 11 (R116). -/
theorem append_zero_eq_shiftLeft_11 (imm21 : BitVec 21) : imm21 ++ 0#11 = imm21.setWidth 32 <<< 11 := by
  apply BitVec.eq_of_toNat_eq
  rw [append_toNat, BitVec.toNat_shiftLeft, BitVec.toNat_setWidth, Nat.shiftLeft_eq, BitVec.toNat_ofNat]
  omega

/-- The wires of a candidate are the packed form of its operand. -/
theorem packOperand_of_candidateOperand {f : Fields} {c : Candidate} {o : Operand} (h : candidateOperand f c = some o) :
    packOperand o = some (candidateSlot f c) := by
  cases c <;> cases h
  case kI21S11 => rw [candidateSlot, append_zero_eq_shiftLeft_11]; rfl
  case kBRC => rw [candidateSlot, append_zero_eq_branchDisp]; rfl
  case kJMP => rw [candidateSlot, append_zero_eq_branchDisp]; rfl
  all_goals rfl

theorem candidateSlot_of_candidateOperand_none {f : Fields} {c : Candidate} (h : candidateOperand f c = none) :
    candidateSlot f c = emptySlot := by
  cases c <;> cases h
  rfl

/-- A candidate's wires denote its operand, and nothing where it is empty (R38). -/
@[simp] theorem unpackSlot_candidateSlot (f : Fields) (c : Candidate) :
    unpackSlot (candidateSlot f c) = candidateOperand f c := by
  cases h : candidateOperand f c with
  | none => rw [candidateSlot_of_candidateOperand_none h]; rfl
  | some o => exact unpackSlot_of_packOperand (packOperand_of_candidateOperand h)

/-- The operand port of a place carries the candidate for that place's operand, if there is one. -/
theorem slotAt_of_candidateOperand (w : Word) {f : Fields} {c : Candidate} {operands : List Operand} {k : Nat}
    (h : operands[k]? = candidateOperand f c) : slotAt w operands k = (candidateSlot f c).bits := by
  unfold slotAt
  cases ho : candidateOperand f c with
  | none => rw [h, ho, candidateSlot_of_candidateOperand_none ho]
  | some o => simp only [h, ho, packOperand_of_candidateOperand ho]

/-! ### The select table delivers the operands of the rule (R80) -/

/-- A selection delivers operands: each multiplexer picks the candidate for the operand of its place (the empty one after
the last), and `nops` is their number. -/
structure Delivers (f : Fields) (sel : Selection) (operands : List Operand) : Prop where
  nops : sel.nops.toNat = operands.length
  place0 : operands[0]? = candidateOperand f sel.slot0
  place1 : operands[1]? = candidateOperand f sel.slot1
  place2 : operands[2]? = candidateOperand f sel.slot2

theorem candidateOperand_storeDest (f : Fields) :
    candidateOperand f
      (if f.modes.raBp then .kFP16 else if f.modes.i16Zero then .kMEM .global else if f.modes.i16One then .kMEM .stack
        else .kMEM .unified) = some (storeDest f.ra f.imm16) := by
  simp only [raBp_iff, i16Zero_iff, i16One_iff, storeDest]
  split_ifs <;> rfl

theorem candidateOperand_storeValue (f : Fields) :
    candidateOperand f (if f.modes.rbSp then .kZERO32 else .kRB) = some (storeValue f.rb) := by
  simp only [rbSp_iff, storeValue]
  split <;> rfl

/-- The row of a catalogued rule delivers the rule's operands: where the rule asks for a mode, the multiplexer asks the
mode predicate. -/
theorem delivers_of_select (p : Params) {rule : DecodeRule} {w : Word} {sel : Selection}
    (h : select rule (extractFields w).modes = some sel) : Delivers (extractFields w) sel (ruleOperands p rule w) := by
  cases rule <;> cases h
  case DR_CALL =>
    simp only [raZero_iff, ruleOperands, drCALL]
    split <;> exact ⟨rfl, rfl, rfl, rfl⟩
  case DR_PUSH =>
    simp only [raBp_iff, ruleOperands, drPUSH]
    split <;> exact ⟨rfl, rfl, rfl, rfl⟩
  case DR_DECREF =>
    simp only [raBp_iff, ruleOperands, drDECREF]
    split <;> exact ⟨rfl, rfl, rfl, rfl⟩
  case DR_MOV =>
    simp only [i16Zero_iff, ruleOperands, drMOV]
    split <;> exact ⟨rfl, rfl, rfl, rfl⟩
  case DR_STORE => exact ⟨rfl, (candidateOperand_storeDest _).symm, (candidateOperand_storeValue _).symm, rfl⟩
  all_goals exact ⟨rfl, rfl, rfl, rfl⟩

/-- A list of at most three elements is what stands at its first three places. -/
theorem filterMap_three_places {α : Type} {l : List α} (h : l.length ≤ 3) : [l[0]?, l[1]?, l[2]?].filterMap id = l := by
  match l with
  | [] | [_] | [_, _] | [_, _, _] => rfl
  | _ :: _ :: _ :: _ :: _ => simp only [List.length_cons] at h; omega

theorem filterMap_unpackSlot_of_delivers {f : Fields} {sel : Selection} {operands : List Operand}
    (h : Delivers f sel operands) :
    ([sel.slot0, sel.slot1, sel.slot2].map (candidateSlot f)).filterMap unpackSlot = operands := by
  have hlen : operands.length ≤ 3 := h.nops ▸ Nat.le_of_lt_succ sel.nops.isLt
  calc ([sel.slot0, sel.slot1, sel.slot2].map (candidateSlot f)).filterMap unpackSlot
    _ = [candidateOperand f sel.slot0, candidateOperand f sel.slot1, candidateOperand f sel.slot2].filterMap id := by
      simp [List.filterMap_cons]
    _ = [operands[0]?, operands[1]?, operands[2]?].filterMap id := by rw [h.place0, h.place1, h.place2]
    _ = operands := filterMap_three_places hlen

/-- Settles O30. -/
theorem selectionDeliversTheOperands : Obligations.SelectionDeliversTheOperands := by
  intro p rule w sel hsel
  have hdelivers := delivers_of_select p hsel
  exact ⟨hdelivers.nops, filterMap_unpackSlot_of_delivers hdelivers⟩

/-! ### The network's ports are those of the decoded instruction (R78) -/

theorem select_eq_none_iff (rule : DecodeRule) (m : Modes) : select rule m = none ↔ rule = .DR_OPEN := by
  cases rule <;> simp [select]

section Network

variable {p : Params} {w : Word}

theorem selectorPorts_of_entry {e : Entry} (h : tableEntry p (extractFields w).opc = some e) :
    selectorPorts p w = selectorHit (extractFields w) e := by
  simp only [selectorPorts, h]

theorem selectorPorts_of_no_entry (h : tableEntry p (extractFields w).opc = none) :
    selectorPorts p w = some (selectorMiss (extractFields w)) := by
  simp only [selectorPorts, h]

theorem selectorHit_eq_none_iff (f : Fields) (e : Entry) : selectorHit f e = none ↔ e.rule = .DR_OPEN := by
  rw [selectorHit, Option.map_eq_none_iff, select_eq_none_iff]

/-- On a hit the three multiplexers and the table columns make up the ports of the entry's rule. -/
theorem eq_portsOf_of_selectorHit {e : Entry} {ports : Ports} (h : selectorHit (extractFields w) e = some ports) :
    ports = portsOf w (hitResult (extractFields w).opc e (ruleOperands p e.rule w)) := by
  obtain ⟨sel, hsel, rfl⟩ := Option.map_eq_some_iff.mp h
  obtain ⟨hnops, h0, h1, h2⟩ := delivers_of_select p hsel
  simp only [portsOf, hitResult, slotAt_of_candidateOperand w h0, slotAt_of_candidateOperand w h1,
    slotAt_of_candidateOperand w h2, ← hnops, BitVec.ofNat_toNat, BitVec.setWidth_eq]

theorem selectorMiss_eq_portsOf (w : Word) :
    selectorMiss (extractFields w) = portsOf w (missResult (extractFields w).opc) := by
  simp only [portsOf, missResult, packFlags_zero]
  rfl

end Network

/-- Settles O29. -/
theorem selectorComputesTheDecodeRules : Obligations.SelectorComputesTheDecodeRules := by
  intro p w
  cases h : tableEntry p (extractFields w).opc with
  | none =>
    rw [selectorPorts_of_no_entry h, decodeInstruction_of_no_entry h, selectorMiss_eq_portsOf]
    simp
  | some e =>
    rw [selectorPorts_of_entry h, decodeInstruction_of_entry h, selectorHit_eq_none_iff]
    exact ⟨fun ports hports => eq_portsOf_of_selectorHit hports, by simp⟩

end Sys2Proof.Machine
end

section
/-! The decode rules on a word, the instructions of the register forms, and the pinned entries at a step
(spec/40_register_forms.md; R133, R151, R157, R172, R185). -/

namespace Sys2Proof.Machine

/-! ### Fields as slices of the word (R8, R70, R75) -/

theorem extractFields_eq_slices (w : Word) :
    extractFields w =
      { opc := slice w 26 32, ra := slice w 21 26, rb := slice w 16 21, rc := slice w 11 16, imm21 := slice w 0 21,
        imm16 := slice w 0 16, imm8 := slice w 0 8, fidx20 := slice w 1 21, flag0 := slice w 0 1, pop22 := slice w 4 26,
        pop4 := slice w 0 4 } :=
  (extractorFieldsAndPredicates w).1

theorem toNat_slice (w : Word) {n start stop : Nat} (h : stop - start ≤ n) :
    (slice w start stop : BitVec n).toNat = extract w start stop := by
  have hlt : extract w start stop < 2 ^ n := by
    rw [extract_eq_div_mod]
    exact (Nat.mod_lt _ (Nat.two_pow_pos _)).trans_le (Nat.pow_le_pow_right Nat.two_pos h)
  rw [slice, BitVec.toNat_ofNat, Nat.mod_eq_of_lt hlt]

/-- A field wide enough for its slice, zero-extended, is the same slice at the new width (R75). -/
theorem setWidth_slice (w : Word) {n m start stop : Nat} (h : stop - start ≤ n) :
    (slice w start stop : BitVec n).setWidth m = slice w start stop := by
  rw [← BitVec.ofNat_toNat, toNat_slice w h, slice]

theorem constImm_slice (w : Word) {n start stop : Nat} (h : stop - start ≤ n) (width : Fin 33) :
    constImm (slice w start stop : BitVec n) width = .imm (slice w start stop) width .const := by
  rw [constImm, setWidth_slice w h]

theorem boolImm_slice (w : Word) {n start stop : Nat} (h : stop - start ≤ n) (width : Fin 33) :
    boolImm (slice w start stop : BitVec n) width = .imm (slice w start stop) width .constBool := by
  rw [boolImm, setWidth_slice w h]

/-- A zero-extended slice shifted left is the multiple of its number by a power of two. -/
theorem setWidth_slice_shiftLeft (w : Word) {n start stop : Nat} (h : stop - start ≤ n) (m k : Nat) :
    (slice w start stop : BitVec n).setWidth m <<< k = BitVec.ofNat m (extract w start stop * 2 ^ k) := by
  apply BitVec.eq_of_toNat_eq
  rw [setWidth_slice w h, BitVec.toNat_shiftLeft, Nat.shiftLeft_eq, slice, BitVec.toNat_ofNat, Nat.mod_mul_mod,
    BitVec.toNat_ofNat]

theorem branchDisp_slice (w : Word) :
    branchDisp (slice w 0 21) = BitVec.ofNat 32 (extract w 0 21 * 4) :=
  setWidth_slice_shiftLeft w (by decide) 32 2

/-! ### A decode rule by its operands and their packed forms -/

theorem slotAt_of_packed (w : Word) {operands : List Operand} {slots : List Slot}
    (h : operands.map packOperand = slots.map some) (k : Nat) :
    slotAt w operands k = (slots[k]?.getD emptySlot).bits := by
  have hk : operands[k]?.map packOperand = slots[k]?.map some := by
    rw [← List.getElem?_map, h, List.getElem?_map]
  unfold slotAt
  cases ho : operands[k]? with
  | none =>
    rw [ho, Option.map_none, eq_comm, Option.map_eq_none_iff] at hk
    rw [hk, Option.getD_none]
  | some o =>
    rw [ho, Option.map_some, eq_comm, Option.map_eq_some_iff] at hk
    obtain ⟨slot, hslot, hpack⟩ := hk
    simp only [hslot, ← hpack, Option.getD_some]

/-- What a rule gives for a word follows from its operands and their packed forms: mnemonic and flags are the entry's, and
the ports carry the packed forms in order. -/
theorem ruleGives_of_packed {p : Params} {w : Word} {rule : DecodeRule} {operands : List Operand} {slots : List Slot}
    (hoperands : ruleOperands p rule w = operands) (hslots : operands.map packOperand = slots.map some) :
    RuleGives p w rule operands slots := by
  refine ⟨hoperands, fun e he hrule => ?_⟩
  have hresult : decodeInstruction p w = hitResult (extractFields w).opc e operands := by
    rw [decodeInstruction_of_entry he, hrule, hoperands]
  have hlen : operands.length = slots.length := by simpa using congrArg List.length hslots
  rw [hresult]
  refine ⟨rfl, ?_⟩
  simp only [portsOf, hitResult, hlen, slotAt_of_packed w hslots]

/-! ### Register forms and register + immediate forms (R110 to R115) -/

/-- Settles O11. -/
theorem registerFormRules : Obligations.RegisterFormRules := by
  refine fun p w => ⟨?_, ?_, ?_, ?_, ?_, ?_⟩ <;> refine ruleGives_of_packed ?_ rfl
  · simp only [ruleOperands, drR, extractFields_eq_slices]
  · simp only [ruleOperands, drRR, extractFields_eq_slices]
  · simp only [ruleOperands, drRRR, extractFields_eq_slices]
  · simp only [ruleOperands, drRI21, extractFields_eq_slices, constImm_slice, Nat.sub_zero, le_refl]
  · simp only [ruleOperands, drRI16, extractFields_eq_slices, constImm_slice, Nat.sub_zero, le_refl]
  · simp only [ruleOperands, drRI8, extractFields_eq_slices, constImm_slice, Nat.sub_zero, le_refl]

/-! ### Shapes decided or inferred in part (R116, R133, R151, R157, R172, R185) -/

section DecidedShapes

variable (p : Params) (w : Word)

/-- R116: all 32 bits of the shifted immediate are kept, in the operand and as the wires of its slot. -/
theorem ruleGives_DR_RI21S11 :
    RuleGives p w .DR_RI21S11 [.reg (slice w 21 26), .imm (BitVec.ofNat 32 (extract w 0 21 * 2 ^ 11)) 32 .const]
      [regSlot (slice w 21 26), immSlot (slice (n := 21) w 0 21 ++ 0#11) 32 0] := by
  have hshift := setWidth_slice_shiftLeft w (n := 21) (start := 0) (stop := 21) (by decide) 32 11
  refine ruleGives_of_packed ?_ ?_
  · simp only [ruleOperands, drRI21S11, extractFields_eq_slices, hshift]
  · rw [append_zero_eq_shiftLeft_11, hshift]
    rfl

/-- R185 at register field 30: the frame pointer plus the immediate. -/
theorem ruleGives_DR_DECREF_of_bp (h : extract w 21 26 = 30) :
    RuleGives p w .DR_DECREF [.ref (.expr (.reg 30) .add (.imm (slice w 0 21) 21 .const)) .stack false]
      [refSlot 3 false (sumSlot 30 (slice w 0 21) 21)] := by
  have hra : (extractFields w).ra = BP := not_ne_iff.mp fun hne => (extract_ra_ne_30_iff w).mpr hne h
  refine ruleGives_of_packed ?_ rfl
  rw [ruleOperands, hra, drDECREF_of_bp, extractFields_eq_slices, constImm_slice w (by decide)]

/-- R185 at any other register field: the register is added to the frame pointer too. -/
theorem ruleGives_DR_DECREF_of_ne_bp (h : extract w 21 26 ≠ 30) :
    RuleGives p w .DR_DECREF
      [.ref (.expr (.reg 30) .add (.expr (.reg (slice w 21 26)) .add (.imm (slice w 0 21) 21 .const))) .stack false]
      [refSlot 3 false { sumSlot (slice w 21 26) (slice w 0 21) 21 with bp := true }] := by
  have hra : (extractFields w).ra ≠ BP := (extract_ra_ne_30_iff w).mp h
  refine ruleGives_of_packed ?_ rfl
  rw [ruleOperands, drDECREF_of_ne_bp hra, extractFields_eq_slices, constImm_slice w (by decide)]

end DecidedShapes

/-- Settles O17. -/
theorem decidedShapeRules : Obligations.DecidedShapeRules := by
  refine fun p w => ⟨ruleGives_DR_RI21S11 p w, ?_, ?_, ?_, ?_, ruleGives_DR_DECREF_of_bp p w,
    ruleGives_DR_DECREF_of_ne_bp p w⟩ <;> refine ruleGives_of_packed ?_ rfl
  · simp only [ruleOperands, drJMP, extractFields_eq_slices, branchDisp_slice]
  · simp only [ruleOperands, drLDBD, basePlus16, extractFields_eq_slices, constImm_slice, Nat.sub_zero, le_refl]
  · simp only [ruleOperands, drMKSTR, extractFields_eq_slices, constImm_slice, Nat.sub_zero, le_refl]
  · simp only [ruleOperands, drPUSHLOC, frameRef16, basePlus16, extractFields_eq_slices, constImm_slice, boolImm_slice,
      Nat.sub_zero, Nat.reduceSub, le_refl]

/-! ### The pinned entries at a step (R33, R117, R134, R137, R181, R189, R190) -/

/-- A word with a pinned opcode has the pinned entry's result, by the entry's rule. -/
theorem decodeInstruction_of_pinned {p : Params} {w : Word} {m : Pinned} (h : extract w 26 32 = m.opcode.toNat) :
    decodeInstruction p w = hitResult m.opcode (pinnedEntry p m) (ruleOperands p (pinnedEntry p m).rule w) := by
  have hopc : (extractFields w).opc = m.opcode := BitVec.eq_of_toNat_eq ((extract_opc w).symm.trans h)
  have hentry : tableEntry p (extractFields w).opc = some (pinnedEntry p m) := hopc ▸ tableEntry_pinned p m
  rw [decodeInstruction_of_entry hentry, hopc]

/-- The open rule of `unk_36` reads the open operands of its own opcode. -/
theorem decodeInstruction_of_unk36 {p : Params} {w : Word} (h : extract w 26 32 = 0x36) :
    decodeInstruction p w = ⟨text "unk_36", 0x36, true, Flags.zero, openOperands p 0x36 w⟩ := by
  have hopc : (extractFields w).opc = 0x36 := BitVec.eq_of_toNat_eq ((extract_opc w).symm.trans h)
  calc decodeInstruction p w
    _ = ⟨text "unk_36", 0x36, true, Flags.zero, openOperands p (extractFields w).opc w⟩ :=
      decodeInstruction_of_pinned (m := .unk36) h
    _ = _ := by rw [hopc]

/-- Settles O45. -/
theorem numberedInstructionsAtAStep : Obligations.NumberedInstructionsAtAStep := by
  intro s w rest h
  obtain ⟨t, hstep, hword, hdecoded, -, -⟩ := step_outputs_of_takeWord h
  exact ⟨t, hstep, hword, fun h => hdecoded.trans (decodeInstruction_of_pinned (m := .add) h),
    fun h => hdecoded.trans (decodeInstruction_of_pinned (m := .jmp) h),
    fun h => hdecoded.trans (decodeInstruction_of_pinned (m := .call) h),
    fun h => hdecoded.trans (decodeInstruction_of_pinned (m := .mov) h),
    fun h => hdecoded.trans (decodeInstruction_of_pinned (m := .stMem32) h),
    fun h => hdecoded.trans (decodeInstruction_of_unk36 h)⟩

/-! ### The instructions of the register forms and register + immediate forms (R110 to R117) -/

/-- An instruction completes with the outputs of its result, and nothing else changes. -/
theorem exec_outputsBecome {i : Instr} {d : DecodedInstruction} (h : instrResult i = d) (s : State) :
    ∃ t, exec i s = .next t ∧ OutputsBecome d s t :=
  ⟨emit d s, h ▸ exec_eq_emit i s, rfl⟩

/-- Settles O31. -/
theorem registerFormsComplete : Obligations.RegisterFormsComplete := fun opc ra rb rc s =>
  ⟨exec_outputsBecome (i := .add ra rb rc) rfl s, exec_outputsBecome (i := .drR opc ra) rfl s,
    exec_outputsBecome (i := .drRR opc ra rb) rfl s, exec_outputsBecome (i := .drRRR opc ra rb rc) rfl s⟩

/-- R116: the shifted immediate is the field above eleven zero bits. -/
theorem instrResult_drRI21S11 (opc : Opcode) (ra : RegIdx) (imm21 : BitVec 21) :
    instrResult (.drRI21S11 opc ra imm21) = rowResult opc [.reg ra, .imm (imm21 ++ 0#11) 32 .const] := by
  rw [append_zero_eq_shiftLeft_11]
  rfl

/-- Settles O32. -/
theorem registerImmediateFormsComplete : Obligations.RegisterImmediateFormsComplete :=
  fun opc ra imm21 imm16 imm8 s =>
  ⟨exec_outputsBecome (i := .drRI21 opc ra imm21) rfl s, exec_outputsBecome (i := .drRI16 opc ra imm16) rfl s,
    exec_outputsBecome (i := .drRI8 opc ra imm8) rfl s,
    exec_outputsBecome (instrResult_drRI21S11 opc ra imm21) s⟩

end Sys2Proof.Machine
end

section
/-! Control transfer: the decode rules on a word, what a host reads off a branch, the instructions, and the named entries at
a step (spec/41_control_transfer.md R130 to R143). -/

namespace Sys2Proof.Machine

/-! ### The two forms of a call (R136) -/

theorem drCALL_zero (fidx20 : BitVec 20) (flag0 : BitVec 1) :
    drCALL 0 fidx20 flag0 = [constImm fidx20 20, boolImm flag0 1] := rfl

theorem drCALL_of_ne_zero {ra : RegIdx} (h : ra ≠ 0) (fidx20 : BitVec 20) (flag0 : BitVec 1) :
    drCALL ra fidx20 flag0 = [.reg ra, boolImm flag0 1] := if_neg h

theorem extract_ra_eq_zero_iff (w : Word) : extract w 21 26 = 0 ↔ (extractFields w).ra = 0 := by
  rw [extract_ra]
  exact BitVec.toNat_inj (y := 0)

/-! ### The shapes of branch, call and return on a word (R130, R136, R138) -/

section Rules

variable (p : Params) (w : Word)

/-- R136 at register field 0: the function index, directly. -/
theorem ruleGives_DR_CALL_of_zero (h : extract w 21 26 = 0) :
    RuleGives p w .DR_CALL [.imm (slice w 1 21) 20 .const, .imm (slice w 0 1) 1 .constBool]
      [immSlot (slice w 1 21) 20 0, immSlot (slice w 0 1) 1 1] := by
  have hra : (extractFields w).ra = 0 := (extract_ra_eq_zero_iff w).mp h
  refine ruleGives_of_packed ?_ rfl
  rw [ruleOperands, hra, drCALL_zero, extractFields_eq_slices, constImm_slice w (by decide), boolImm_slice w (by decide)]

/-- R136 at any other register field: the register. -/
theorem ruleGives_DR_CALL_of_ne_zero (h : extract w 21 26 ≠ 0) :
    RuleGives p w .DR_CALL [.reg (slice w 21 26), .imm (slice w 0 1) 1 .constBool]
      [regSlot (slice w 21 26), immSlot (slice w 0 1) 1 1] := by
  have hra : (extractFields w).ra ≠ 0 := mt (extract_ra_eq_zero_iff w).mpr h
  refine ruleGives_of_packed ?_ rfl
  rw [ruleOperands, drCALL_of_ne_zero hra, extractFields_eq_slices, boolImm_slice w (by decide)]

end Rules

/-- Settles O12. -/
theorem controlTransferRules : Obligations.ControlTransferRules := by
  refine fun p w => ⟨?_, ruleGives_DR_CALL_of_zero p w, ruleGives_DR_CALL_of_ne_zero p w, ?_⟩ <;>
    refine ruleGives_of_packed ?_ rfl
  · simp only [ruleOperands, drBRC, extractFields_eq_slices, branchDisp_slice]
  · simp only [ruleOperands, drRETN, extractFields_eq_slices, constImm_slice, Nat.sub_zero, le_refl]

/-! ### The named entries at a step (R35) -/

section Named

variable {p : Params} {w : Word} {m : Unnumbered}

theorem opc_of_extract_eq_opcOf (h : extract w 26 32 = (p.opcOf m).toNat) : (extractFields w).opc = p.opcOf m :=
  BitVec.eq_of_toNat_eq ((extract_opc w).symm.trans h)

/-- A word with a named entry's opcode has that entry's result, by the entry's rule. -/
theorem decodeInstruction_of_unnumbered (h : extract w 26 32 = (p.opcOf m).toNat) :
    decodeInstruction p w =
      hitResult (p.opcOf m) (unnumberedEntry p m) (ruleOperands p (unnumberedEntry p m).rule w) := by
  have hopc := opc_of_extract_eq_opcOf h
  have hentry : tableEntry p (extractFields w).opc = some (unnumberedEntry p m) := hopc ▸ tableEntry_unnumbered p m
  rw [decodeInstruction_of_entry hentry, hopc]

end Named

/-- Settles O46. -/
theorem namedInstructionsAtAStep : Obligations.NamedInstructionsAtAStep := by
  intro s w rest hword m hm
  obtain ⟨t, hstep, hwordI, hdecoded, -, -⟩ := step_outputs_of_takeWord hword
  rw [decodeInstruction_of_unnumbered hm] at hdecoded
  refine ⟨t, hstep, hwordI, congrArg (·.opcode) hdecoded, congrArg (·.hit) hdecoded, ?_, ?_⟩
  · rw [hdecoded]
    cases m
    case mkgc =>
      -- The open rule reads the operands of the word's own opcode.
      exact congrArg (fun k => (text "mkgc", openOperands Config.params k w)) (opc_of_extract_eq_opcOf hm)
    all_goals rfl
  · rw [hdecoded]
    cases m <;> rfl

/-! ### The jump-target operand and the target of a call (R142) -/

/-- The IP-relative CODE reference of a branch, at a declared width (R130, R133). -/
def branchRef (imm21 : BitVec 21) (width : Fin 33) : Operand := .ref (.imm (branchDisp imm21) width .const) .code true

section Targets

variable {p : Params} {w : Word}

/-- `jz` and `jnz` differ in mnemonic and opcode alone: both have the shape of R130, jump, and fall through. -/
theorem decodeInstruction_of_conditional
    (h : extract w 26 32 = (p.opcOf .jz).toNat ∨ extract w 26 32 = (p.opcOf .jnz).toNat) :
    ∃ k e, e.flags.jump = true ∧ e.flags.noFall = false ∧
      decodeInstruction p w = hitResult k e [.reg (extractFields w).ra, branchRef (extractFields w).imm21 23] := by
  rcases h with h | h
  all_goals exact ⟨_, _, rfl, rfl, decodeInstruction_of_unnumbered h⟩

theorem decodeInstruction_of_jmp (h : extract w 26 32 = 0x07) :
    decodeInstruction p w = hitResult 0x07 (pinnedEntry p .jmp) [branchRef (extractFields w).imm21 21] :=
  decodeInstruction_of_pinned (m := .jmp) h

theorem decodeInstruction_of_call (h : extract w 26 32 = 0x0F) :
    decodeInstruction p w = hitResult 0x0F (pinnedEntry p .call)
      (drCALL (extractFields w).ra (extractFields w).fidx20 (extractFields w).flag0) :=
  decodeInstruction_of_pinned (m := .call) h

end Targets

section Hit

variable {k : Opcode} {e : Entry}

/-- A register before the branch reference is passed over. -/
theorem jumpTarget_reg_branchRef (hjump : e.flags.jump = true) (ra : RegIdx) (imm21 : BitVec 21) (width : Fin 33) :
    jumpTarget (hitResult k e [.reg ra, branchRef imm21 width]) = some (branchRef imm21 width) :=
  if_pos hjump

theorem jumpTarget_branchRef (hjump : e.flags.jump = true) (imm21 : BitVec 21) (width : Fin 33) :
    jumpTarget (hitResult k e [branchRef imm21 width]) = some (branchRef imm21 width) :=
  if_pos hjump

end Hit

theorem jumpTarget_eq_none {d : DecodedInstruction} (hjump : d.flags.jump = false) : jumpTarget d = none := by
  simp [jumpTarget, hjump]

/-- The first operand of a call, an index or a register, is no Reference (R136). -/
theorem head?_drCALL (ra : RegIdx) (fidx20 : BitVec 20) (flag0 : BitVec 1) :
    ∃ o, (drCALL ra fidx20 flag0).head? = some o ∧ ∀ inner space iprel, o ≠ .ref inner space iprel := by
  by_cases hra : ra = 0
  · rw [hra, drCALL_zero]
    exact ⟨_, rfl, fun _ _ _ => Operand.noConfusion⟩
  · rw [drCALL_of_ne_zero hra]
    exact ⟨_, rfl, fun _ _ _ => Operand.noConfusion⟩

/-- Settles O52. -/
theorem jumpTargetOperands : Obligations.JumpTargetOperands := by
  refine fun p w => ⟨fun h => ?_, fun h => ?_, fun h => ?_⟩
  · obtain ⟨k, e, hjump, -, hd⟩ := decodeInstruction_of_conditional h
    rw [hd, jumpTarget_reg_branchRef hjump]
    exact ⟨_, rfl, rfl⟩
  · rw [decodeInstruction_of_jmp h, jumpTarget_branchRef rfl]
    exact ⟨_, rfl, rfl⟩
  · obtain ⟨o, hhead, href⟩ := head?_drCALL (extractFields w).ra (extractFields w).fidx20 (extractFields w).flag0
    rw [decodeInstruction_of_call h]
    exact ⟨o, hhead, List.head?_eq_getElem?.symm.trans hhead, href⟩

/-! ### Successors (R141, R143) -/

theorem branchDisp_toNat (imm21 : BitVec 21) : (branchDisp imm21).toNat = 4 * imm21.toNat := by
  rw [branchDisp, BitVec.toNat_shiftLeft, BitVec.toNat_setWidth, Nat.shiftLeft_eq]
  omega

theorem extract_imm21 (w : Word) : extract w 0 21 = (extractFields w).imm21.toNat := by
  rw [extract_eq_div_mod, imm21_toNat, Nat.pow_zero, Nat.div_one]

/-- The literal reading of R141 adds the displacement, unsigned, to the branch word's own address. -/
theorem targetAddress_literal_branchRef (A : Nat) (imm21 : BitVec 21) (width : Fin 33) :
    targetAddress literalReading A (branchRef imm21 width) = some ((A : Int) + 4 * imm21.toNat) := by
  have hdisp : targetAddress literalReading A (branchRef imm21 width) = some ((A : Int) + (branchDisp imm21).toNat) := rfl
  rw [hdisp, branchDisp_toNat, Nat.cast_mul]
  rfl

section Successors

variable {d : DecodedInstruction}

/-- Without a jump only the next word is left, and that only without NOFALL. -/
theorem successors_of_not_jump (r : BranchReading) (A : Nat) (hjump : d.flags.jump = false) :
    successors r A d = if d.flags.noFall then [] else [(A : Int) + 4] := by
  rw [successors, jumpTarget_eq_none hjump]
  exact List.append_nil _

theorem successors_literal_of_jumpTarget (A : Nat) {imm21 : BitVec 21} {width : Fin 33}
    (h : jumpTarget d = some (branchRef imm21 width)) :
    successors literalReading A d =
      (if d.flags.noFall then [] else [(A : Int) + 4]) ++ [(A : Int) + 4 * imm21.toNat] := by
  rw [successors, h, Option.bind_some, targetAddress_literal_branchRef]
  rfl

theorem successors_of_not_jump_of_fall (r : BranchReading) (A : Nat) (hjump : d.flags.jump = false)
    (hfall : d.flags.noFall = false) : successors r A d = [(A : Int) + 4] := by
  rw [successors_of_not_jump r A hjump, hfall]
  rfl

end Successors

/-- Settles O53. -/
theorem successorsOfAnInstruction : Obligations.SuccessorsOfAnInstruction := by
  intro p w A
  rw [extract_imm21]
  refine ⟨fun h => ?conditional, fun h => ?jmp, fun h => ?retn, fun h => ?call,
    successors_of_not_jump_of_fall literalReading A, fun h => ?miss⟩
  case conditional =>
    obtain ⟨k, e, hjump, hfall, hd⟩ := decodeInstruction_of_conditional h
    rw [hd, successors_literal_of_jumpTarget A (jumpTarget_reg_branchRef hjump _ _ _)]
    simp [hitResult, hfall]
  case jmp =>
    rw [decodeInstruction_of_jmp h]
    exact successors_literal_of_jumpTarget A (jumpTarget_branchRef rfl _ _)
  case retn =>
    rw [decodeInstruction_of_unnumbered h]
    exact successors_of_not_jump literalReading A rfl
  case call =>
    rw [decodeInstruction_of_call h]
    exact successors_of_not_jump_of_fall literalReading A rfl rfl
  case miss =>
    rw [decodeInstruction_of_no_entry h]
    exact successors_of_not_jump_of_fall literalReading A rfl rfl

/-! ### The instructions of control transfer (R131, R132, R134, R137, R139) -/

/-- Settles O33. -/
theorem branchesComplete : Obligations.BranchesComplete := by
  intro ra imm21 s
  rw [append_zero_eq_branchDisp]
  exact ⟨exec_outputsBecome (i := .jz ra imm21) rfl s, exec_outputsBecome (i := .jnz ra imm21) rfl s,
    exec_outputsBecome (i := .jmp imm21) rfl s⟩

theorem instrResult_call_of_ne_zero {ra : RegIdx} (h : ra ≠ 0) (fidx20 : BitVec 20) (flag0 : BitVec 1) :
    instrResult (.call ra fidx20 flag0) = pinnedResult .call [.reg ra, boolImm flag0 1] :=
  congrArg (pinnedResult .call) (drCALL_of_ne_zero h fidx20 flag0)

/-- Settles O34. -/
theorem callAndReturnComplete : Obligations.CallAndReturnComplete := fun _ fidx20 flag0 imm16 s =>
  ⟨exec_outputsBecome (i := .call 0 fidx20 flag0) rfl s,
    fun hra => exec_outputsBecome (instrResult_call_of_ne_zero hra fidx20 flag0) s,
    exec_outputsBecome (i := .retn imm16) rfl s⟩

end Sys2Proof.Machine
end

section
/-! Loads: the decode rules on a word and the instructions (spec/42_loads.md R150 to R158). -/

namespace Sys2Proof.Machine

/-! ### The shapes of the loads on a word (R150, R152 to R155) -/

theorem basePlus16_slice (w : Word) (base : RegIdx) :
    basePlus16 base (slice w 0 16) = .expr (.reg base) .add (.imm (slice w 0 16) 16 .const) := by
  rw [basePlus16, constImm_slice w (by decide)]

section LoadShapes

variable (p : Params) (w : Word)

/-- R150: the immediate itself is the GLOBAL offset, with no base register. -/
theorem ruleGives_DR_LDG :
    RuleGives p w .DR_LDG [.reg (slice w 21 26), .ref (.imm (slice w 0 21) 21 .const) .global false]
      [regSlot (slice w 21 26), refSlot 1 false (immSlot (slice w 0 21) 21 0)] := by
  refine ruleGives_of_packed ?_ rfl
  rw [ruleOperands, drLDG, extractFields_eq_slices, constImm_slice w (by decide)]

/-- R151 to R154: the base + displacement loads differ in the address space alone. -/
theorem ruleGives_of_drLDBD {rule : DecodeRule} {space : Space}
    (hrule : ruleOperands p rule w = drLDBD space (extractFields w).ra (extractFields w).rb (extractFields w).imm16) :
    RuleGives p w rule
      [.reg (slice w 21 26), .ref (.expr (.reg (slice w 16 21)) .add (.imm (slice w 0 16) 16 .const)) space false]
      [regSlot (slice w 21 26), refSlot (spaceBits space) false (sumSlot (slice w 16 21) (slice w 0 16) 16)] := by
  refine ruleGives_of_packed ?_ rfl
  rw [hrule, drLDBD, extractFields_eq_slices, basePlus16_slice]

/-- R155: the base is the frame pointer, whatever the word's `rb` field holds. -/
theorem ruleGives_DR_LDLOC :
    RuleGives p w .DR_LDLOC
      [.reg (slice w 21 26), .ref (.expr (.reg 30) .add (.imm (slice w 0 16) 16 .const)) .stack false]
      [regSlot (slice w 21 26), refSlot 3 false (sumSlot 30 (slice w 0 16) 16)] := by
  refine ruleGives_of_packed ?_ rfl
  rw [ruleOperands, drLDLOC, frameRef16, extractFields_eq_slices, basePlus16_slice]

end LoadShapes

/-- Settles O13. -/
theorem loadRules : Obligations.LoadRules := fun p w =>
  ⟨ruleGives_DR_LDG p w,
    ruleGives_of_drLDBD p w (rule := .DR_LDBD_C) (space := .code) rfl,
    ruleGives_of_drLDBD p w (rule := .DR_LDBD_U) (space := .unified) rfl,
    ruleGives_of_drLDBD p w (rule := .DR_LDBD_S) (space := .stack) rfl,
    ruleGives_DR_LDLOC p w⟩

/-! ### The instructions of the loads (R150 to R154, R156, R158) -/

/-- Settles O35. -/
theorem loadsComplete : Obligations.LoadsComplete := fun opc ra rb imm21 imm16 s =>
  ⟨exec_outputsBecome (i := .ldLocal32b ra imm16) rfl s, exec_outputsBecome (i := .mkstr ra imm21) rfl s,
    exec_outputsBecome (i := .drLDG opc ra imm21) rfl s, exec_outputsBecome (i := .drLDBDG opc ra rb imm16) rfl s,
    exec_outputsBecome (i := .drLDBDC opc ra rb imm16) rfl s, exec_outputsBecome (i := .drLDBDU opc ra rb imm16) rfl s,
    exec_outputsBecome (i := .drLDBDS opc ra rb imm16) rfl s⟩

end Sys2Proof.Machine
end

section
/-! The stack: the decode rules on a word and the instructions (spec/43_stack.md R170 to R175). -/

namespace Sys2Proof.Machine

/-! ### The two forms of a push (R170) -/

theorem drPUSH_bp (imm21 : BitVec 21) : drPUSH BP imm21 = [constImm imm21 21] := rfl

theorem drPUSH_of_ne_bp {ra : RegIdx} (h : ra ≠ BP) (imm21 : BitVec 21) : drPUSH ra imm21 = [.reg ra] := if_neg h

theorem extract_ra_eq_30_iff (w : Word) : extract w 21 26 = 30 ↔ (extractFields w).ra = BP :=
  not_iff_not.mp (extract_ra_ne_30_iff w)

/-! ### The shapes of push and pop on a word (R170, R174) -/

section StackShapes

variable (p : Params) (w : Word)

/-- R170 at register field 30: the immediate in place of the frame pointer. -/
theorem ruleGives_DR_PUSH_of_bp (h : extract w 21 26 = 30) :
    RuleGives p w .DR_PUSH [.imm (slice w 0 21) 21 .const] [immSlot (slice w 0 21) 21 0] := by
  have hra : (extractFields w).ra = BP := (extract_ra_eq_30_iff w).mp h
  refine ruleGives_of_packed ?_ rfl
  rw [ruleOperands, hra, drPUSH_bp, extractFields_eq_slices, constImm_slice w (by decide)]

/-- R170 at any other register field: the register, and no immediate. -/
theorem ruleGives_DR_PUSH_of_ne_bp (h : extract w 21 26 ≠ 30) :
    RuleGives p w .DR_PUSH [.reg (slice w 21 26)] [regSlot (slice w 21 26)] := by
  have hra : (extractFields w).ra ≠ BP := (extract_ra_ne_30_iff w).mp h
  refine ruleGives_of_packed ?_ rfl
  rw [ruleOperands, drPUSH_of_ne_bp hra, extractFields_eq_slices]

/-- R174: the 22-bit field reaches over the register field, so no register is named. -/
theorem ruleGives_DR_POP :
    RuleGives p w .DR_POP [.imm (slice w 4 26) 22 .const, .imm (slice w 0 4) 4 .const]
      [immSlot (slice w 4 26) 22 0, immSlot (slice w 0 4) 4 0] := by
  refine ruleGives_of_packed ?_ rfl
  rw [ruleOperands, drPOP, extractFields_eq_slices, constImm_slice w (by decide), constImm_slice w (by decide)]

end StackShapes

/-- Settles O14. -/
theorem stackRules : Obligations.StackRules := fun p w =>
  ⟨ruleGives_DR_PUSH_of_bp p w, ruleGives_DR_PUSH_of_ne_bp p w, ruleGives_DR_POP p w⟩

/-! ### The instructions of the stack (R171, R173, R175) -/

theorem instrResult_push_of_ne_bp {ra : RegIdx} (h : ra ≠ BP) (imm21 : BitVec 21) :
    instrResult (.push ra imm21) = namedResult .push [.reg ra] :=
  congrArg (namedResult .push) (drPUSH_of_ne_bp h imm21)

/-- Settles O36. -/
theorem stackInstructionsComplete : Obligations.StackInstructionsComplete := fun _ imm21 flag imm16 pop22 pop4 s =>
  ⟨exec_outputsBecome (i := .push 30 imm21) rfl s,
    fun hra => exec_outputsBecome (instrResult_push_of_ne_bp hra imm21) s,
    exec_outputsBecome (i := .pushLocal32 flag imm16) rfl s,
    exec_outputsBecome (i := .pop pop22 pop4) rfl s⟩

end Sys2Proof.Machine
end

section
/-! Stores, `decref` and `mov`: the decode rules on a word, the instructions, and the open and unknown entries
(spec/44_store_refcount_mov.md R180 to R190; R36, R200). -/

namespace Sys2Proof.Machine

/-! ### The four destinations and the two values of a store (R180) -/

theorem storeDest_bp (imm16 : BitVec 16) : storeDest BP imm16 = frameRef16 imm16 := rfl

section Destination

variable {ra : RegIdx}

theorem storeDest_zero (h : ra ≠ BP) : storeDest ra 0 = .ref (.reg ra) .global false := if_neg h

theorem storeDest_one (h : ra ≠ BP) : storeDest ra 1 = .ref (.reg ra) .stack false := if_neg h

theorem storeDest_of_two_le {imm16 : BitVec 16} (h : ra ≠ BP) (htwo : 2 ≤ imm16.toNat) :
    storeDest ra imm16 = .ref (.reg ra) .unified false := by
  have hzero : imm16 ≠ 0 := by rintro rfl; exact absurd htwo (by decide)
  have hone : imm16 ≠ 1 := by rintro rfl; exact absurd htwo (by decide)
  rw [storeDest, if_neg h, if_neg hzero, if_neg hone]

end Destination

theorem storeValue_sp : storeValue SP = .imm 0 32 .const := rfl

theorem storeValue_of_ne_sp {rb : RegIdx} (h : rb ≠ SP) : storeValue rb = .reg rb := if_neg h

/-! ### The two forms of a mov (R188) -/

theorem drMOV_zero (ra rb : RegIdx) : drMOV ra rb 0 = [.reg ra, .reg rb] := rfl

theorem drMOV_of_ne_zero {imm16 : BitVec 16} (h : imm16 ≠ 0) (ra rb : RegIdx) :
    drMOV ra rb imm16 = [.reg ra, basePlus16 rb imm16] := if_neg h

/-! ### The shape of a store on a word (R180) -/

theorem extract_imm16_eq_iff (w : Word) (v : BitVec 16) : extract w 0 16 = v.toNat ↔ (extractFields w).imm16 = v := by
  rw [extract_imm16, BitVec.toNat_inj]

theorem extract_rb_eq_31_iff (w : Word) : extract w 16 21 = 31 ↔ (extractFields w).rb = SP := by
  rw [extract_rb]
  exact BitVec.toNat_inj (y := SP)

section StoreShapes

variable {w : Word}

theorem storeDest_fields_of_bp (h : extract w 21 26 = 30) :
    storeDest (extractFields w).ra (extractFields w).imm16 =
      .ref (.expr (.reg 30) .add (.imm (slice w 0 16) 16 .const)) .stack false := by
  rw [(extract_ra_eq_30_iff w).mp h, storeDest_bp, frameRef16, extractFields_eq_slices, basePlus16_slice]

theorem storeDest_fields_of_zero (h : extract w 21 26 ≠ 30) (hzero : extract w 0 16 = 0) :
    storeDest (extractFields w).ra (extractFields w).imm16 = .ref (.reg (slice w 21 26)) .global false := by
  have hra : (extractFields w).ra ≠ BP := (extract_ra_ne_30_iff w).mp h
  rw [(extract_imm16_eq_iff w 0).mp hzero, storeDest_zero hra, extractFields_eq_slices]

theorem storeDest_fields_of_one (h : extract w 21 26 ≠ 30) (hone : extract w 0 16 = 1) :
    storeDest (extractFields w).ra (extractFields w).imm16 = .ref (.reg (slice w 21 26)) .stack false := by
  have hra : (extractFields w).ra ≠ BP := (extract_ra_ne_30_iff w).mp h
  rw [(extract_imm16_eq_iff w 1).mp hone, storeDest_one hra, extractFields_eq_slices]

theorem storeDest_fields_of_two_le (h : extract w 21 26 ≠ 30) (htwo : 2 ≤ extract w 0 16) :
    storeDest (extractFields w).ra (extractFields w).imm16 = .ref (.reg (slice w 21 26)) .unified false := by
  have hra : (extractFields w).ra ≠ BP := (extract_ra_ne_30_iff w).mp h
  rw [storeDest_of_two_le hra (htwo.trans_eq (extract_imm16 w)), extractFields_eq_slices]

theorem storeValue_field_of_sp (h : extract w 16 21 = 31) : storeValue (extractFields w).rb = .imm 0 32 .const := by
  rw [(extract_rb_eq_31_iff w).mp h, storeValue_sp]

theorem storeValue_field_of_ne_sp (h : extract w 16 21 ≠ 31) : storeValue (extractFields w).rb = .reg (slice w 16 21) := by
  rw [storeValue_of_ne_sp (mt (extract_rb_eq_31_iff w).mpr h), extractFields_eq_slices]

/-- Destination and value of a store are independent of each other, and so are their slots. -/
theorem ruleGives_DR_STORE (p : Params) {dest value : Operand} {destSlot valueSlot : Slot}
    (hdest : storeDest (extractFields w).ra (extractFields w).imm16 = dest) (hdestSlot : packOperand dest = some destSlot)
    (hvalue : storeValue (extractFields w).rb = value) (hvalueSlot : packOperand value = some valueSlot) :
    RuleGives p w .DR_STORE [dest, value] [destSlot, valueSlot] := by
  refine ruleGives_of_packed ?_ ?_
  · rw [ruleOperands, drSTORE, hdest, hvalue]
  · simp only [List.map_cons, List.map_nil, hdestSlot, hvalueSlot]

end StoreShapes

/-- Settles O15. -/
theorem storeRule : Obligations.StoreRule := by
  intro p w dest value destSlot valueSlot hdest hvalue
  have ⟨hstoreDest, hdestSlot⟩ :
      storeDest (extractFields w).ra (extractFields w).imm16 = dest ∧ packOperand dest = some destSlot := by
    rcases hdest with ⟨h, rfl, rfl⟩ | ⟨h, hzero, rfl, rfl⟩ | ⟨h, hone, rfl, rfl⟩ | ⟨h, htwo, rfl, rfl⟩
    · exact ⟨storeDest_fields_of_bp h, rfl⟩
    · exact ⟨storeDest_fields_of_zero h hzero, rfl⟩
    · exact ⟨storeDest_fields_of_one h hone, rfl⟩
    · exact ⟨storeDest_fields_of_two_le h htwo, rfl⟩
  have ⟨hstoreValue, hvalueSlot⟩ : storeValue (extractFields w).rb = value ∧ packOperand value = some valueSlot := by
    rcases hvalue with ⟨h, rfl, rfl⟩ | ⟨h, rfl, rfl⟩
    · exact ⟨storeValue_field_of_sp h, rfl⟩
    · exact ⟨storeValue_field_of_ne_sp h, rfl⟩
  exact ruleGives_DR_STORE p hstoreDest hdestSlot hstoreValue hvalueSlot

/-! ### The shape of a mov on a word (R188) -/

section MovShapes

variable (p : Params) (w : Word)

/-- R188 at displacement 0: the bare source register. -/
theorem ruleGives_DR_MOV_of_zero (h : extract w 0 16 = 0) :
    RuleGives p w .DR_MOV [.reg (slice w 21 26), .reg (slice w 16 21)]
      [regSlot (slice w 21 26), regSlot (slice w 16 21)] := by
  have himm : (extractFields w).imm16 = 0 := (extract_imm16_eq_iff w 0).mp h
  refine ruleGives_of_packed ?_ rfl
  rw [ruleOperands, himm, drMOV_zero, extractFields_eq_slices]

/-- R188 at any other displacement: the source register plus the displacement, and no Reference. -/
theorem ruleGives_DR_MOV_of_ne_zero (h : extract w 0 16 ≠ 0) :
    RuleGives p w .DR_MOV
      [.reg (slice w 21 26), .expr (.reg (slice w 16 21)) .add (.imm (slice w 0 16) 16 .const)]
      [regSlot (slice w 21 26), sumSlot (slice w 16 21) (slice w 0 16) 16] := by
  have himm : (extractFields w).imm16 ≠ 0 := mt (extract_imm16_eq_iff w 0).mpr h
  refine ruleGives_of_packed ?_ rfl
  rw [ruleOperands, drMOV_of_ne_zero himm, extractFields_eq_slices, basePlus16_slice]

end MovShapes

/-- Settles O16. -/
theorem movRule : Obligations.MovRule := fun p w =>
  ⟨ruleGives_DR_MOV_of_zero p w, ruleGives_DR_MOV_of_ne_zero p w⟩

/-! ### The instructions (R181 to R183, R186, R187, R189, R190, R200) -/

/-- Settles O37. -/
theorem storesComplete : Obligations.StoresComplete := fun ra rb imm16 s =>
  ⟨storeDest ra imm16, storeValue rb, rfl, rfl, exec_outputsBecome (i := .stMem32 ra rb imm16) rfl s,
    exec_outputsBecome (i := .stMem8 ra rb imm16) rfl s, exec_outputsBecome (i := .stGc ra rb imm16) rfl s⟩

theorem instrResult_decref_of_ne_bp {ra : RegIdx} (h : ra ≠ BP) (imm21 : BitVec 21) :
    instrResult (.decref ra imm21) =
      namedResult .decref [.ref (.expr (.reg BP) .add (.expr (.reg ra) .add (constImm imm21 21))) .stack false] :=
  congrArg (namedResult .decref) (drDECREF_of_ne_bp h imm21)

theorem instrResult_mov_of_ne_zero {imm16 : BitVec 16} (h : imm16 ≠ 0) (ra rb : RegIdx) :
    instrResult (.mov ra rb imm16) = pinnedResult .mov [.reg ra, basePlus16 rb imm16] :=
  congrArg (pinnedResult .mov) (drMOV_of_ne_zero h ra rb)

/-- Settles O38. -/
theorem decrefAndMovComplete : Obligations.DecrefAndMovComplete := fun ra rb imm21 _ s =>
  ⟨exec_outputsBecome (i := .decref 30 imm21) rfl s,
    fun hra => exec_outputsBecome (instrResult_decref_of_ne_bp hra imm21) s,
    exec_outputsBecome (i := .mov ra rb 0) rfl s,
    fun himm => exec_outputsBecome (instrResult_mov_of_ne_zero himm ra rb) s⟩

/-- Settles O39. -/
theorem openAndUnknownEntriesComplete : Obligations.OpenAndUnknownEntriesComplete := fun opc low26 s =>
  ⟨exec_outputsBecome (i := .mkgc low26) rfl s, exec_outputsBecome (i := .unk36 low26) rfl s,
    exec_outputsBecome (i := .row opc low26) rfl s, exec_outputsBecome (i := .ud opc) rfl s⟩

end Sys2Proof.Machine
end

section
/-! Fallback, the stream form and the step: an opcode without an entry, the testable properties, what a step leaves, and the
listing of a stream (spec/45_fallback_and_orchestration.md R200 to R204). -/

namespace Sys2Proof.Machine

/-! ### What a step leaves, by `decode(TABLE, w)` (R202, R203) -/

section Step

variable {s : State} {w : Word} {rest : List Byte}

theorem step_of_takeWord_eq_emit (h : takeWord s.stream = some (w, rest)) :
    step s = .next (writeLine (emit (decodeInstruction Config.params w) (present w rest s))) := by
  rw [step_of_takeWord h, instrResult_decode]

theorem step_of_no_word_eq_emit (h : takeWord s.stream = none) :
    step s = .next (emit (decodeInstruction Config.params s.wordI) s) := by
  rw [step_of_no_word h, instrResult_decode]

/-- All a step can do: a presented word's outputs and line, or the outputs of `word_i` again and no line. -/
theorem step_cases {t : State} (h : step s = .next t) :
    (∃ w rest, takeWord s.stream = some (w, rest) ∧
      t = writeLine (emit (decodeInstruction Config.params w) (present w rest s))) ∨
    (takeWord s.stream = none ∧ t = emit (decodeInstruction Config.params s.wordI) s) := by
  cases hword : takeWord s.stream with
  | some taken =>
    obtain ⟨w, rest⟩ := taken
    rw [step_of_takeWord_eq_emit hword, Host.Outcome.next.injEq] at h
    exact .inl ⟨w, rest, rfl, h.symm⟩
  | none =>
    rw [step_of_no_word_eq_emit hword, Host.Outcome.next.injEq] at h
    exact .inr ⟨rfl, h.symm⟩

end Step

/-- Driving the outputs of `decode(TABLE, word_i)` makes them follow `word_i`. -/
theorem outputsFollowInput_emit (s : State) :
    OutputsFollowInput (emit (decodeInstruction Config.params s.wordI) s) := ⟨rfl, rfl, rfl⟩

/-- Writing the line touches no output. -/
theorem outputsFollowInput_writeLine_iff (s : State) : OutputsFollowInput (writeLine s) ↔ OutputsFollowInput s := Iff.rfl

/-- Settles O43. -/
theorem everyStepGivesTheBlockFunction : Obligations.EveryStepGivesTheBlockFunction := by
  intro s t h
  rcases step_cases h with ⟨w, rest, -, rfl⟩ | ⟨-, rfl⟩
  · rw [outputsFollowInput_writeLine_iff]
    exact outputsFollowInput_emit (present w rest s)
  · exact outputsFollowInput_emit s

/-! ### The listing of a byte sequence (R203) -/

section Listing

variable {p : Params} {w : Word} {bs rest : List Byte}

theorem disassemble_nil (p : Params) : disassemble p [] = [] := rfl

/-- `disassemble` takes its words as the host does. -/
theorem disassemble_of_takeWord (h : takeWord bs = some (w, rest)) :
    disassemble p bs = lineOf p w ++ [newline] ++ disassemble p rest := by
  unfold takeWord at h
  split at h
  · cases h
    rw [disassemble]
  · cases h

theorem disassemble_bytesOfWord_append (p : Params) (w : Word) (rest : List Byte) :
    disassemble p (bytesOfWord w ++ rest) = lineOf p w ++ [newline] ++ disassemble p rest :=
  disassemble_of_takeWord (takeWord_bytesOfWord w rest)

theorem disassemble_bytesOfWord (p : Params) (w : Word) : disassemble p (bytesOfWord w) = lineOf p w ++ [newline] := by
  simpa only [List.append_nil, disassemble_nil] using disassemble_bytesOfWord_append p w []

/-- Whole words are listed before whatever follows them. -/
theorem disassemble_append_of_whole_words (hwhole : bs.length % 4 = 0) :
    disassemble p (bs ++ rest) = disassemble p bs ++ disassemble p rest := by
  induction bs using disassemble.induct with
  | case1 b0 b1 b2 b3 bs ih =>
    have hbs : bs.length % 4 = 0 := by simpa only [List.length_cons, Nat.add_assoc, Nat.add_mod_right] using hwhole
    simp only [List.cons_append, disassemble, ih hbs, List.append_assoc]
  | case2 bs hshort =>
    have hlen : bs.length < 4 := (takeWord_eq_none_iff bs).mp (by rw [takeWord]; exact hshort)
    obtain rfl : bs = [] := List.eq_nil_of_length_eq_zero (by omega)
    rfl

end Listing

/-- Settles O50. -/
theorem disassembleWritesOneLinePerWord : Obligations.DisassembleWritesOneLinePerWord := by
  intro p words
  induction words with
  | nil => rfl
  | cons w words ih =>
    rw [List.flatMap_cons, disassemble_bytesOfWord_append, ih, List.flatMap_cons]
    rfl

@[simp] theorem length_bytesOfWord (w : Word) : (bytesOfWord w).length = 4 := rfl

/-- Presenting a word, decoding it and writing its line keeps the listing that of the words presented. -/
theorem listingFollowsStream_of_presented {s : State} (h : ListingFollowsStream s) (w : Word) (rest : List Byte) :
    ListingFollowsStream (writeLine (emit (decodeInstruction Config.params w) (present w rest s))) := by
  obtain ⟨hwhole, hlisting⟩ := h
  constructor
  · simp [hwhole]
  · calc s.listing ++ (lineOf Config.params w ++ [newline])
      _ = disassemble Config.params s.consumed ++ disassemble Config.params (bytesOfWord w) := by
        rw [hlisting, disassemble_bytesOfWord]
      _ = disassemble Config.params (s.consumed ++ bytesOfWord w) :=
        (disassemble_append_of_whole_words hwhole).symm

/-- Driving the outputs touches neither what was presented nor what was written. -/
theorem listingFollowsStream_emit_iff (d : DecodedInstruction) (s : State) :
    ListingFollowsStream (emit d s) ↔ ListingFollowsStream s := Iff.rfl

/-- Settles O49. -/
theorem everyStepKeepsTheListing : Obligations.EveryStepKeepsTheListing := by
  intro s t hs h
  rcases step_cases h with ⟨w, rest, -, rfl⟩ | ⟨-, rfl⟩
  · exact listingFollowsStream_of_presented hs w rest
  · exact (listingFollowsStream_emit_iff _ s).mpr hs

/-! ### A stream runs to its listing (R203) -/

theorem run_succ_of_step {s t : State} (h : step s = .next t) (n : Nat) :
    Host.Core.run core (n + 1) s = Host.Core.run core n t := by
  have hcore : core.step s = .next t := h
  simp only [Host.Core.run, hcore]

/-- Settles O51, by induction on the words: the first step presents the first word and leaves a stream of the others. -/
theorem streamRunsToItsListing : Obligations.StreamRunsToItsListing := by
  intro words
  induction words with
  | nil =>
    intro s hstream
    exact ⟨s, rfl, hstream, by simp [hstream], by simp [hstream, disassemble_nil]⟩
  | cons w words ih =>
    intro s hstream
    rw [List.flatMap_cons] at hstream
    have hstep := step_of_takeWord_eq_emit ((takeWord_eq_some_iff _ _ _).mpr hstream)
    obtain ⟨t, hrun, hempty, hconsumed, hlisting⟩ :=
      ih (writeLine (emit _ (present w (words.flatMap bytesOfWord) s))) rfl
    refine ⟨t, (run_succ_of_step hstep words.length).trans hrun, hempty, ?_, ?_⟩
    · rw [hconsumed, hstream]
      exact List.append_assoc ..
    · rw [hlisting, hstream, disassemble_bytesOfWord_append]
      exact List.append_assoc ..

/-! ### The instruction a step runs, and a placed word (R203) -/

theorem step_eq_exec_of_takeWord {s : State} {w : Word} {rest : List Byte} (h : takeWord s.stream = some (w, rest)) :
    step s = afterPresented (exec (decode w) (present w rest s)) := by
  simp only [step, h]

theorem step_eq_exec_of_no_word {s : State} (h : takeWord s.stream = none) : step s = exec (decode s.wordI) s := by
  simp only [step, h]

/-- Settles O40. -/
theorem stepRunsTheDecodedInstruction : Obligations.StepRunsTheDecodedInstruction := by
  refine ⟨fun s t b0 b1 b2 b3 rest i hstream hi _ hexec => ?_, fun s i hlen hi _ => ?_⟩
  · have hword : takeWord s.stream = some (wordOfBytes b0 b1 b2 b3, rest) := by rw [hstream, takeWord]
    have hpresented : exec i (present (wordOfBytes b0 b1 b2 b3) rest s) = .next t := by
      rw [present, bytesOfWord_wordOfBytes]
      exact hexec
    rw [step_eq_exec_of_takeWord hword, hi, hpresented]
    rfl
  · rw [step_eq_exec_of_no_word ((takeWord_eq_none_iff _).mpr hlen), hi]

theorem wordOfNat_toNat (w : Word) : wordOfNat w.toNat = some w := by
  rw [wordOfNat, if_pos w.isLt, BitVec.ofNat_toNat, BitVec.setWidth_eq]

theorem withFetchWord_toNat (s : State) (nbits : Nat) (w : Word) : s.withFetchWord nbits w.toNat = placeWord w s := by
  simp only [State.withFetchWord, wordOfNat_toNat]

/-- Presenting replaces the stream, so the bytes a word was placed in front of leave no trace. -/
theorem present_placeWord (w v : Word) (rest : List Byte) (s : State) :
    present w rest (placeWord v s) = present w rest s := rfl

/-- Settles O41. -/
theorem placedWordIsRunNext : Obligations.PlacedWordIsRunNext := by
  intro s nbits w
  have hword : takeWord (placeWord w s).stream = some (w, s.stream.drop 4) := takeWord_bytesOfWord w _
  rw [withFetchWord_toNat, step_eq_exec_of_takeWord hword, present_placeWord]

/-! ### An opcode without an entry (R200) -/

theorem opc_eq_slice (w : Word) : (extractFields w).opc = slice w 26 32 :=
  congrArg Fields.opc (extractFields_eq_slices w)

/-- An uppercase hexadecimal digit stands at its own value among the sixteen. -/
theorem getElem?_hexDigits {d : Nat} (h : d < 16) : (text "0123456789ABCDEF")[d]? = some (digitChar true d) := by
  have hall : ∀ d : Fin 16, (text "0123456789ABCDEF")[d.val]? = some (digitChar true d.val) := by decide
  exact hall ⟨d, h⟩

theorem portsOf_missResult (w : Word) :
    portsOf w (missResult (extractFields w).opc) =
      { opcodeO := (extractFields w).opc, hitO := false, flagsO := 0, nopsO := 0, op0O := 0, op1O := 0, op2O := 0 } :=
  (selectorMiss_eq_portsOf w).symm

/-- The mnemonic of a miss has five characters, so eleven spaces fill its column and one more ends it. -/
theorem render_missResult (k : Opcode) : render (missResult k) = (missResult k).mnemonic ++ List.replicate 12 ' ' := rfl

/-- Settles O18. -/
theorem unknownOpcodeFallsBack : Obligations.UnknownOpcodeFallsBack := by
  intro p w hnone
  have hlt : extract w 26 32 < 64 := (extract_opc w).trans_lt (extractFields w).opc.isLt
  rw [decodeInstruction_of_no_entry hnone, portsOf_missResult, render_missResult, ← opc_eq_slice]
  refine ⟨_, _, getElem?_hexDigits (by omega), getElem?_hexDigits (by omega), ?_⟩
  rw [extract_opc]
  exact ⟨rfl, rfl, rfl⟩

/-! ### The testable properties (R204) -/

/-- Words of one opcode share an entry. -/
theorem tableEntry_eq_of_extract_eq (p : Params) {w w' : Word} (h : extract w 26 32 = extract w' 26 32) :
    tableEntry p (extractFields w).opc = tableEntry p (extractFields w').opc := by
  rw [opc_eq_of_extract_eq h]

theorem mnemonic_of_entry {p : Params} {w : Word} {e : Entry} (h : tableEntry p (extractFields w).opc = some e) :
    (decodeInstruction p w).mnemonic = e.mnemonic := by
  rw [decodeInstruction_of_entry h]
  rfl

theorem flags_decodeInstruction (p : Params) (w : Word) :
    (decodeInstruction p w).flags = ((tableEntry p (extractFields w).opc).map Entry.flags).getD Flags.zero := by
  cases h : tableEntry p (extractFields w).opc with
  | none => rw [decodeInstruction_of_no_entry h]; rfl
  | some e => rw [decodeInstruction_of_entry h]; rfl

theorem opcode_decodeInstruction (p : Params) (w : Word) : (decodeInstruction p w).opcode = (extractFields w).opc := by
  cases h : tableEntry p (extractFields w).opc with
  | none => rw [decodeInstruction_of_no_entry h]; rfl
  | some e => rw [decodeInstruction_of_entry h]; rfl

/-- A word with a pinned opcode is a hit with the pinned mnemonic. -/
theorem mnemonic_hit_of_pinned {p : Params} {w : Word} (m : Pinned) (h : extract w 26 32 = m.opcode.toNat) :
    (decodeInstruction p w).mnemonic = (pinnedEntry p m).mnemonic ∧ (decodeInstruction p w).hit = true := by
  rw [decodeInstruction_of_pinned h]
  exact ⟨rfl, rfl⟩

/-- Settles O20. -/
theorem testableProperties : Obligations.TestableProperties := by
  refine fun p => ⟨fun w e he => ⟨mnemonic_of_entry he, fun w' hopc => ?hit⟩, fun w hnone => ?miss,
    fun w => ⟨extract_zero_32 w, fun n _ => extract_self w n⟩, fun w w' => congrArg fun v => render (decodeInstruction p v),
    fun w w' hopc => ?flags, fun w => ?opcode, fun w => ?pinned⟩
  case hit =>
    have he' : tableEntry p (extractFields w').opc = some e := (tableEntry_eq_of_extract_eq p hopc).trans he
    have ⟨hcount, _⟩ := operandCountIsFixedByTheRule p w' e he'
    exact ⟨mnemonic_of_entry he', opc_eq_of_extract_eq hopc ▸ hcount⟩
  case miss =>
    rw [decodeInstruction_of_no_entry hnone]
    exact ⟨rfl, rfl⟩
  case flags => rw [flags_decodeInstruction, flags_decodeInstruction, tableEntry_eq_of_extract_eq p hopc]
  case opcode => rw [opcode_decodeInstruction, extract_opc]
  case pinned =>
    exact ⟨mnemonic_hit_of_pinned .add, mnemonic_hit_of_pinned .jmp, mnemonic_hit_of_pinned .call,
      mnemonic_hit_of_pinned .mov, mnemonic_hit_of_pinned .stMem32, mnemonic_hit_of_pinned .unk36⟩

end Sys2Proof.Machine
end

section
/-! The text renderer (spec/46_text_renderer.md): numbers in digits, operand texts and their length, and the line. -/

namespace Sys2Proof.Machine

/-! ### A number in digits -/

section Digits

variable {base : Nat}

theorem digitsIn_succ_of_lt {n : Nat} (h : n < base) (fuel : Nat) : digitsIn base (fuel + 1) n = [n] := if_pos h

theorem digitsIn_succ_of_le {n : Nat} (h : base ≤ n) (fuel : Nat) :
    digitsIn base (fuel + 1) n = digitsIn base fuel (n / base) ++ [n % base] := if_neg h.not_gt

/-- The digits of a positive number begin with a positive digit. -/
theorem digitsIn_eq_cons_of_pos (hb : 2 ≤ base) {fuel n : Nat} (hn : 0 < n) (hfuel : n < fuel) :
    ∃ d ds, digitsIn base fuel n = d :: ds ∧ 0 < d := by
  induction fuel generalizing n with
  | zero => omega
  | succ fuel ih =>
    rcases Nat.lt_or_ge n base with hlt | hle
    · exact ⟨n, [], digitsIn_succ_of_lt hlt fuel, hn⟩
    · have hdiv : n / base < fuel := (Nat.div_lt_self hn hb).trans_le (Nat.le_of_lt_succ hfuel)
      obtain ⟨d, ds, hds, hd⟩ := ih (Nat.div_pos hle (by omega)) hdiv
      exact ⟨d, ds ++ [n % base], by rw [digitsIn_succ_of_le hle, hds, List.cons_append], hd⟩

/-- A number below a power of the base needs no more digits than its exponent. -/
theorem length_digitsIn_le (fuel : Nat) {n k : Nat} (h : n < base ^ (k + 1)) :
    (digitsIn base fuel n).length ≤ k + 1 := by
  induction fuel generalizing n k with
  | zero => exact Nat.zero_le _
  | succ fuel ih =>
    rcases Nat.lt_or_ge n base with hlt | hle
    · rw [digitsIn_succ_of_lt hlt]
      exact Nat.le_add_left 1 k
    · cases k with
      | zero => rw [zero_add, pow_one] at h; omega
      | succ k =>
        rw [digitsIn_succ_of_le hle, List.length_append]
        exact Nat.succ_le_succ (ih (Nat.div_lt_of_lt_mul (by rwa [← pow_succ'])))

end Digits

/-- A digit's character is one of the characters of the bases above it. -/
theorem digitChar_mem_take {base d : Nat} (hbase : base ≤ 16) (h : d < base) :
    digitChar true d ∈ (text "0123456789ABCDEF").take base :=
  List.mem_of_getElem? (i := d) (by rw [List.getElem?_take, if_pos h, getElem?_hexDigits (h.trans_le hbase)])

theorem digitValue_digitChar {d : Nat} (h : d < 16) : digitValue (digitChar true d) = d := by
  have hall : ∀ d : Fin 16, digitValue (digitChar true d.val) = d.val := by decide
  exact hall ⟨d, h⟩

theorem digitChar_ne_zero {d : Nat} (h : d < 16) (hpos : 0 < d) : digitChar true d ≠ '0' := by
  have hall : ∀ d : Fin 16, 0 < d.val → digitChar true d.val ≠ '0' := by decide
  exact hall ⟨d, h⟩ hpos

/-- The spelling of a number in a base up to sixteen, which `DEC` and `HEXU` are (`decText_eq`, `hexText_eq`). -/
def digitText (base n : Nat) : Text := (digitsIn base (n + 1) n).map (digitChar true)

theorem decText_eq (n : Nat) : decText n = digitText 10 n := rfl

theorem hexText_eq (n : Nat) : hexText n = digitText 16 n := rfl

/-- A text spells a number in a base: in the base's digits, to its value, without leading zeros. -/
structure Spells (base n : Nat) (t : Text) : Prop where
  digits : ∀ c ∈ t, c ∈ (text "0123456789ABCDEF").take base
  value : readDigits base t = n
  nonempty : t ≠ []
  no_leading_zero : 1 < t.length → t.head? ≠ some '0'

section Spelling

variable {base : Nat} (hlow : 2 ≤ base) (hhigh : base ≤ 16) (n : Nat)

include hlow hhigh

theorem digits_digitText : ∀ c ∈ digitText base n, c ∈ (text "0123456789ABCDEF").take base := by
  intro c hc
  obtain ⟨d, hd, rfl⟩ := List.mem_map.mp hc
  exact digitChar_mem_take hhigh (digitsIn_lt (by omega) _ _ d hd)

theorem readDigits_digitText : readDigits base (digitText base n) = n := by
  calc readDigits base (digitText base n)
    _ = (digitsIn base (n + 1) n).foldl (fun a d => a * base + digitValue (digitChar true d)) 0 := List.foldl_map
    _ = (digitsIn base (n + 1) n).foldl (fun a d => a * base + d) 0 := List.foldl_ext _ _ _ fun a d hd => by
      rw [digitValue_digitChar ((digitsIn_lt (by omega) _ _ d hd).trans_le hhigh)]
    _ = n := digitsIn_value hlow _ n n.lt_succ_self

/-- Zero is spelled by one digit; any other number begins with a digit that is not zero. -/
theorem digitText_eq_cons :
    ∃ c cs, digitText base n = c :: cs ∧ (0 < cs.length → c ≠ '0') := by
  rcases n.eq_zero_or_pos with rfl | hpos
  · have hzero : digitsIn base (0 + 1) 0 = [0] := digitsIn_succ_of_lt (by omega) 0
    exact ⟨_, [], by rw [digitText, hzero]; rfl, fun h => absurd h (lt_irrefl 0)⟩
  · obtain ⟨d, ds, hds, hd⟩ := digitsIn_eq_cons_of_pos hlow hpos n.lt_succ_self
    have hlt : d < base := digitsIn_lt (by omega) (n + 1) n d (hds ▸ List.mem_cons_self)
    exact ⟨_, _, by rw [digitText, hds, List.map_cons], fun _ => digitChar_ne_zero (hlt.trans_le hhigh) hd⟩

theorem spells_digitText : Spells base n (digitText base n) := by
  obtain ⟨c, cs, hcons, hlead⟩ := digitText_eq_cons hlow hhigh n
  refine ⟨digits_digitText hlow hhigh n, readDigits_digitText hlow hhigh n, ?nonempty, ?lead⟩
  case nonempty => exact hcons ▸ List.cons_ne_nil c cs
  case lead =>
    rw [hcons, List.head?_cons, List.length_cons, ne_eq, Option.some_inj]
    exact fun hlen => hlead (Nat.lt_of_succ_lt_succ hlen)

end Spelling

theorem spells_decText (n : Nat) : Spells 10 n (decText n) :=
  decText_eq n ▸ spells_digitText (by decide) (by decide) n

theorem spells_hexText (n : Nat) : Spells 16 n (hexText n) :=
  hexText_eq n ▸ spells_digitText (by decide) (by decide) n

theorem length_decText_le {n k : Nat} (h : n < 10 ^ (k + 1)) : (decText n).length ≤ k + 1 :=
  (List.length_map _).trans_le (length_digitsIn_le _ h)

theorem length_hexText_le {n k : Nat} (h : n < 16 ^ (k + 1)) : (hexText n).length ≤ k + 1 :=
  (List.length_map _).trans_le (length_digitsIn_le _ h)

/-! ### The padding of a CONST immediate (R212) -/

@[simp] theorem length_padHex (t : Text) : (padHex t).length = max 2 t.length := by
  rw [padHex, List.length_append, List.length_replicate, Nat.sub_add_eq_max]

theorem padHex_of_two_le {t : Text} (h : 2 ≤ t.length) : padHex t = t := by
  rw [padHex, Nat.sub_eq_zero_of_le h, List.replicate_zero, List.nil_append]

theorem mem_padHex {t : Text} {c : Char} (h : c ∈ padHex t) : c = '0' ∨ c ∈ t :=
  (List.mem_append.mp h).imp_left List.eq_of_mem_replicate

/-- Zeros on the left do not change the number. -/
theorem readDigits_replicate_zero_append (base k : Nat) (t : Text) :
    readDigits base (List.replicate k '0' ++ t) = readDigits base t := by
  induction k with
  | zero => rfl
  | succ k ih =>
    rw [← ih, List.replicate_succ, List.cons_append, readDigits, List.foldl_cons, zero_mul]
    rfl

/-! ### Operand texts (R211 to R217) -/

theorem renderOperand_const (v : BitVec 32) (width : Fin 33) :
    renderOperand (.imm v width .const) = '#' :: (padHex (hexText v.toNat) ++ ['h']) := rfl

theorem renderOperand_bool (v : BitVec 32) (width : Fin 33) :
    renderOperand (.imm v width .constBool) = if v = 0 then text "false" else text "true" := rfl

theorem renderOperand_fixed (v : BitVec 32) (width : Fin 33) :
    renderOperand (.imm v width .fixed) = decText (v.toNat / 2 ^ 11) ++ '.' :: decText (v.toNat % 2 ^ 11) := by
  rw [← Nat.shiftRight_eq_div_pow, ← Nat.and_two_pow_sub_one_eq_mod]
  rfl

theorem renderOperand_expr (l r : Operand) (op : BinOp) :
    renderOperand (.expr l op r) = renderOperand l ++ opText op ++ renderOperand r := rfl

theorem renderOperand_ref (inner : Operand) (space : Space) (iprel : Bool) :
    renderOperand (.ref inner space iprel) =
      spaceLetter space :: text (if iprel then "::[+" else "::[") ++ renderOperand inner ++ text "]" := by
  cases iprel <;> rfl

/-- Settles O55: padding touches only a one-digit text, and there it adds the one further zero allowed. -/
theorem constImmediateText : Obligations.ConstImmediateText := by
  intro v width
  have hspells := spells_hexText v.toNat
  refine ⟨padHex (hexText v.toNat), renderOperand_const v width, ?length, ?digits, ?value, ?lead⟩
  case length => exact (length_padHex _).symm ▸ le_max_left 2 _
  case digits =>
    intro c hc
    rcases mem_padHex hc with rfl | hc
    · decide
    · exact List.mem_of_mem_take (hspells.digits c hc)
  case value => exact (readDigits_replicate_zero_append 16 _ _).trans hspells.value
  case lead =>
    rw [length_padHex]
    intro hlen
    have htwo : 2 < (hexText v.toNat).length := by omega
    rw [padHex_of_two_le htwo.le]
    exact hspells.no_leading_zero (by omega)

/-- Settles O56. -/
theorem fixedImmediateText : Obligations.FixedImmediateText := by
  intro v width
  have hhi := spells_decText (v.toNat / 2 ^ 11)
  have hlo := spells_decText (v.toNat % 2 ^ 11)
  exact ⟨_, _, renderOperand_fixed v width, fun c hc => (List.mem_append.mp hc).elim (hhi.digits c) (hlo.digits c),
    hhi.value, hlo.value, hhi.nonempty, hlo.nonempty, hhi.no_leading_zero, hlo.no_leading_zero⟩

/-- Settles O54: the 32 texts by evaluation, the boolean for every value. -/
theorem registerAndBoolTexts : Obligations.RegisterAndBoolTexts := by
  refine ⟨by decide, fun v width => ?_⟩
  have hzero : v.toNat = 0 ↔ v = 0 := BitVec.toNat_inj (y := 0)
  rw [renderOperand_bool]
  exact if_congr hzero.symm rfl rfl

/-- Settles O57, each clause the Expression's or the Reference's equation at its symbols. -/
theorem expressionAndReferenceTexts : Obligations.ExpressionAndReferenceTexts := fun l r =>
  ⟨renderOperand_expr l r .add, renderOperand_expr l r .sub, renderOperand_expr l r .shl, renderOperand_expr l r .shr,
    renderOperand_ref l .code false, renderOperand_ref l .code true, renderOperand_ref l .global false,
    renderOperand_ref l .global true, renderOperand_ref l .unified false, renderOperand_ref l .unified true,
    renderOperand_ref l .stack false, renderOperand_ref l .stack true⟩

/-! ### The line (R219, R220) -/

theorem renderOperands_eq_intercalate (operands : List Operand) :
    renderOperands operands = List.intercalate (text ", ") (operands.map renderOperand) := by
  induction operands with
  | nil => rfl
  | cons a rest ih =>
    cases rest with
    | nil => exact List.intercalate_singleton.symm
    | cons b rest =>
      rw [renderOperands, ih]
      exact List.intercalate_cons_cons.symm

theorem render_eq (d : DecodedInstruction) :
    render d = d.mnemonic ++ List.replicate (16 - d.mnemonic.length) ' ' ++ text " " ++ renderOperands d.operands := by
  rw [List.append_assoc]
  rfl

/-- Settles O58. -/
theorem lineFormat : Obligations.LineFormat := fun d =>
  ⟨List.replicate (16 - d.mnemonic.length) ' ', by rw [render_eq, renderOperands_eq_intercalate],
    fun _ => List.eq_of_mem_replicate, List.length_replicate⟩

/-! ### The characters of a line (R210, R221) -/

/-- Every character of a text is one a line may hold. -/
def lineText (t : Text) : Bool := t.all lineChar

@[simp] theorem lineText_append (t u : Text) : lineText (t ++ u) = (lineText t && lineText u) := List.all_append

@[simp] theorem lineText_cons (c : Char) (t : Text) : lineText (c :: t) = (lineChar c && lineText t) := List.all_cons

theorem lineText_iff {t : Text} : lineText t = true ↔ ∀ c ∈ t, lineChar c = true := List.all_eq_true

theorem lineText_of_spells {base n : Nat} {t : Text} (h : Spells base n t) : lineText t = true := by
  have hdigits : lineText (text "0123456789ABCDEF") = true := by decide
  exact lineText_iff.mpr fun c hc => lineText_iff.mp hdigits c (List.mem_of_mem_take (h.digits c hc))

theorem lineText_replicate {c : Char} (h : lineChar c = true) (k : Nat) : lineText (List.replicate k c) = true :=
  lineText_iff.mpr fun _ hx => List.eq_of_mem_replicate hx ▸ h

theorem lineText_renderReg (r : RegIdx) : lineText (renderReg r) = true := by
  have hr : lineChar 'r' = true := by decide
  unfold renderReg
  split_ifs
  · decide
  · decide
  · rw [lineText_cons, hr, lineText_of_spells (spells_decText _)]
    rfl

theorem lineText_renderOperand (o : Operand) : lineText (renderOperand o) = true := by
  induction o with
  | reg r => exact lineText_renderReg r
  | imm v width kind =>
    cases kind with
    | const =>
      have hpad : lineText (padHex (hexText v.toNat)) = true := by
        rw [padHex, lineText_append, lineText_replicate (by decide), lineText_of_spells (spells_hexText _)]
        rfl
      rw [renderOperand_const, lineText_cons, lineText_append, hpad]
      decide
    | constBool =>
      rw [renderOperand_bool]
      split <;> decide
    | fixed =>
      rw [renderOperand_fixed, lineText_append, lineText_cons, lineText_of_spells (spells_decText _),
        lineText_of_spells (spells_decText _)]
      decide
  | expr l op r hl hr =>
    rw [renderOperand_expr, lineText_append, lineText_append, hl, hr]
    cases op <;> decide
  | ref inner space iprel h =>
    rw [renderOperand_ref, lineText_append, lineText_append, h]
    cases space <;> cases iprel <;> decide

theorem lineText_renderOperands (operands : List Operand) : lineText (renderOperands operands) = true := by
  induction operands with
  | nil => rfl
  | cons a rest ih =>
    cases rest with
    | nil => exact lineText_renderOperand a
    | cons b rest =>
      rw [renderOperands, lineText_append, lineText_append, lineText_renderOperand, ih]
      decide

/-- A line adds to its mnemonic only characters a line may hold. -/
theorem lineText_render {d : DecodedInstruction} (h : lineText d.mnemonic = true) : lineText (render d) = true := by
  rw [render_eq, lineText_append, lineText_append, lineText_append, h, lineText_replicate (by decide),
    lineText_renderOperands]
  decide

/-- The mnemonic of every word is one a line may hold: on a hit the entry's, on a miss `ud_` and two digits. -/
theorem lineText_mnemonic_decodeInstruction (p : Params) (w : Word) :
    lineText (decodeInstruction p w).mnemonic = true := by
  cases h : tableEntry p (extractFields w).opc with
  | some e =>
    rw [mnemonic_of_entry h]
    exact tableEntry_mnemonic_lineChar h
  | none =>
    have hmiss : ∀ k : Opcode, lineText (missResult k).mnemonic = true := by decide
    rw [decodeInstruction_of_no_entry h]
    exact hmiss _

/-- Settles O59. -/
theorem linesAreAsciiWithoutBreaks : Obligations.LinesAreAsciiWithoutBreaks :=
  ⟨fun p w => lineText_iff.mp (lineText_render (lineText_mnemonic_decodeInstruction p w)),
    fun _ h => lineText_iff.mp (lineText_render (lineText_iff.mpr h))⟩

/-! ### The length of operand texts (R224) -/

theorem length_renderReg_le (r : RegIdx) : (renderReg r).length ≤ 3 := by
  have hnum : (decText r.toNat).length ≤ 1 + 1 := length_decText_le (r.isLt.trans (by decide))
  unfold renderReg
  split_ifs
  · decide
  · decide
  · exact Nat.succ_le_succ hnum

/-- A CONST immediate has three characters around its hexadecimal digits, of which there are at least two. -/
theorem length_renderOperand_const_le {v : BitVec 32} {k : Nat} (h : v.toNat < 16 ^ (k + 2)) (width : Fin 33) :
    (renderOperand (.imm v width .const)).length ≤ k + 4 := by
  have hhex := length_hexText_le h
  rw [renderOperand_const, List.length_cons, List.length_append, List.length_singleton, length_padHex]
  omega

theorem length_renderOperand_imm_le (v : BitVec 32) (width : Fin 33) {kind : ImmKind} (h : kind ≠ .fixed) :
    (renderOperand (.imm v width kind)).length ≤ 10 := by
  cases kind with
  | const => exact length_renderOperand_const_le (k := 6) v.isLt width
  | constBool =>
    rw [renderOperand_bool]
    split <;> decide
  | fixed => exact absurd rfl h

theorem length_renderOperand_add (l r : Operand) :
    (renderOperand (.expr l .add r)).length = (renderOperand l).length + 1 + (renderOperand r).length := by
  rw [renderOperand_expr, List.length_append, List.length_append]
  rfl

theorem length_renderOperand_ref (inner : Operand) (space : Space) (iprel : Bool) :
    (renderOperand (.ref inner space iprel)).length = (renderOperand inner).length + if iprel then 6 else 5 := by
  have hopening : (spaceLetter space :: text (if iprel then "::[+" else "::[")).length = if iprel then 5 else 4 := by
    cases iprel <;> rfl
  have hclosing : (text "]").length = 1 := rfl
  rw [renderOperand_ref, List.length_append, List.length_append, hopening, hclosing]
  split_ifs <;> omega

/-- A register, a plus sign and ten characters of an immediate. -/
theorem length_renderOperand_le_of_plainLeaf {o : Operand} (h : plainLeaf o = true) : (renderOperand o).length ≤ 14 := by
  rcases plainLeaf_cases h with ⟨r, rfl⟩ | ⟨x, width, kind, rfl, hkind⟩ | ⟨r, x, width, kind, rfl, hkind⟩
  · exact (length_renderReg_le r).trans (by decide)
  · exact (length_renderOperand_imm_le x width hkind).trans (by decide)
  · have hreg : (renderOperand (.reg r)).length ≤ 3 := length_renderReg_le r
    have himm := length_renderOperand_imm_le x width hkind
    rw [length_renderOperand_add]
    omega

theorem length_renderOperand_le_of_plainOperand {o : Operand} (h : plainOperand o = true) :
    (renderOperand o).length ≤ 20 := by
  rcases plainOperand_cases h with hleaf | ⟨inner, space, iprel, rfl, hleaf⟩
  · exact (length_renderOperand_le_of_plainLeaf hleaf).trans (by decide)
  · have hinner := length_renderOperand_le_of_plainLeaf hleaf
    rw [length_renderOperand_ref]
    split_ifs <;> omega

/-- The operand of `DR_DECREF` with a register field other than 30: its 21 bits take six digits at most. -/
theorem length_renderOperand_decref_le (ra : RegIdx) (imm21 : BitVec 21) :
    (renderOperand (.ref (.expr (.reg BP) .add (.expr (.reg ra) .add (constImm imm21 21))) .stack false)).length ≤ 20 := by
  have hbp : (renderOperand (.reg BP)).length = 2 := rfl
  have hreg : (renderOperand (.reg ra)).length ≤ 3 := length_renderReg_le ra
  have hvalue : (imm21.setWidth 32).toNat < 16 ^ (4 + 2) := by
    have := imm21.isLt
    rw [BitVec.toNat_setWidth]
    omega
  have himm : (renderOperand (constImm imm21 21)).length ≤ 8 := length_renderOperand_const_le hvalue 21
  rw [length_renderOperand_ref, length_renderOperand_add, length_renderOperand_add, hbp, if_neg Bool.false_ne_true]
  omega

/-- Settles O60: the words of `decref` with register fields 10 and 31 and all 21 immediate bits set. -/
theorem operandTextLengthBound : Obligations.OperandTextLengthBound := by
  refine ⟨fun p rule w o hopen h => ?bound, fun p => ?longest, fun p => ?withSp⟩
  case bound =>
    rcases mem_ruleOperands_cases hopen h with ⟨-, hplain⟩ | ⟨-, rfl⟩
    · exact length_renderOperand_le_of_plainOperand hplain
    · exact length_renderOperand_decref_le _ _
  case longest => exact ⟨0x015FFFFF, _, List.mem_singleton_self _, by decide⟩
  case withSp => exact ⟨0x03FFFFFF, _, List.mem_singleton_self _, by decide, by decide⟩

end Sys2Proof.Machine
end

section
/-! Bad numbers and ranges, the outputs as a function of the opcode field, the reset state, and words written out bit by bit
(spec/60_exceptions.md R240, R241; spec/70_reset_and_hazards.md R260, R264; spec/95_test_vectors.md). -/

namespace Sys2Proof

/-! ### The word of an encoding decodes to its instruction -/

/-- A word the encoder gives for a well-formed instruction decodes to it under the block's own table. -/
theorem decode_of_encode {w : Word} {i : Instr} (hword : encode i = w) (hwf : i.wfWith Config.params = true) :
    decode w = i :=
  hword ▸ decodeOfEncodeReturnsInstruction Config.params i hwf

/-- Settles O4: each of the seven words is the encoding of the instruction it stands for. -/
theorem writtenWordsDecode : Obligations.WrittenWordsDecode :=
  ⟨decode_of_encode (by decide) rfl, decode_of_encode (by decide) rfl, decode_of_encode (by decide) rfl,
    decode_of_encode (by decide) rfl, decode_of_encode (by decide) rfl, decode_of_encode (by decide) rfl,
    decode_of_encode (by decide) rfl⟩

/-! ### Numbers that are no word (R240) -/

theorem wordOfNat_of_le {n : Nat} (h : 2 ^ 32 ≤ n) : wordOfNat n = none := if_neg (Nat.not_lt.mpr h)

end Sys2Proof

namespace Sys2Proof.Machine

theorem decodeNat_toNat (p : Params) (w : Word) : decodeNat p w.toNat = .ok (decodeInstruction p w) := by
  simp only [decodeNat, wordOfNat_toNat]

theorem decodeNat_of_le (p : Params) {n : Nat} (h : 2 ^ 32 ≤ n) : decodeNat p n = .error .invalidWord := by
  simp only [decodeNat, wordOfNat_of_le h]

/-! ### Ranges outside the word (R241) -/

section Range

variable {start stop : Nat}

theorem extractChecked_of_range (w : Word) (h : start ≤ stop ∧ stop ≤ 32) :
    extractChecked w start stop = .ok (extract w start stop) := if_pos h

theorem extractChecked_of_not_range (w : Word) (h : ¬ (start ≤ stop ∧ stop ≤ 32)) :
    extractChecked w start stop = .error .invalidBitRange := if_neg h

end Range

/-- Settles O3. -/
theorem badNumbersAndRangesAreRefused : Obligations.BadNumbersAndRangesAreRefused := by
  refine ⟨decodeNat_toNat, fun p _ => decodeNat_of_le p, fun w start stop => ⟨extractChecked_of_range w, fun hbad => ?_⟩⟩
  have hrange : ¬ (start ≤ stop ∧ stop ≤ 32) := by omega
  exact extractChecked_of_not_range w hrange

/-! ### The outputs as functions of the opcode field (R264) -/

theorem hit_decodeInstruction (p : Params) (w : Word) :
    (decodeInstruction p w).hit = (tableEntry p (extractFields w).opc).isSome := by
  cases h : tableEntry p (extractFields w).opc with
  | none => rw [decodeInstruction_of_no_entry h]; rfl
  | some e => rw [decodeInstruction_of_entry h]; rfl

/-- A hit has as many operands as its entry's rule gives at that opcode, a miss none. -/
theorem length_operands_decodeInstruction (p : Params) (w : Word) :
    (decodeInstruction p w).operands.length =
      ((tableEntry p (extractFields w).opc).map fun e => ruleCount p e.rule (extractFields w).opc).getD 0 := by
  cases h : tableEntry p (extractFields w).opc with
  | none => rw [decodeInstruction_of_no_entry h]; rfl
  | some e => rw [decodeInstruction_of_entry h]; exact length_ruleOperands p e.rule w

/-- Settles O22. The operand count of an open rule is constant too (D23), so `nops_o` agrees without the premise. -/
theorem outputsDependOnTheOpcodeAlone : Obligations.OutputsDependOnTheOpcodeAlone := by
  intro p w w' hext
  have hopc : (extractFields w).opc = (extractFields w').opc := opc_eq_of_extract_eq hext
  simp only [portsOf, opcode_decodeInstruction, hit_decodeInstruction, flags_decodeInstruction,
    length_operands_decodeInstruction, hopc, implies_true, and_self]

/-! ### The reset state (R260) -/

/-- The word 0 is `add` with three times register 0. -/
theorem decoded_reset : State.reset.decoded = decodeInstruction Config.params State.reset.wordI :=
  (decodeInstruction_of_pinned (m := .add) (w := 0) rfl).symm

theorem outputsFollowInput_reset : OutputsFollowInput State.reset := ⟨decoded_reset, rfl, rfl⟩

/-- Nothing has been presented and nothing written. -/
theorem listingFollowsStream_reset : ListingFollowsStream State.reset := ⟨rfl, (disassemble_nil Config.params).symm⟩

/-- Settles O44. -/
theorem resetMeetsTheInvariants : Obligations.ResetMeetsTheInvariants :=
  ⟨outputsFollowInput_reset, listingFollowsStream_reset⟩

end Sys2Proof.Machine
end
